-- ==== Sys2Proof/Word.lean ====
section
/-! DEFINITION. The word types of the block: bytes of song memory and 16-bit addresses and
registers (00_scope.md R4, section 5). -/

namespace Sys2Proof

/-- `u8`: one location of song memory, and the 8-bit registers. -/
abbrev Byte := BitVec 8

/-- `u16` and `i16`: addresses, cursors and 16-bit registers. A signed register is read through
`BitVec.toInt` (00_scope.md section 5, `as_i16`). -/
abbrev Word := BitVec 16

/-- `u32` and `i32`: the registers of the tick-to-sample converter (10_state.md R29). -/
abbrev Word32 := BitVec 32

end Sys2Proof
end

