-- ==== Sys2Proof/Config.lean ====
section
/-! DEFINITION. What the spec fixes for the block as named constants (00_scope.md R2, R3, R7, R9,
R10), and the one free value of the model, the value of a PCM sample (20_memory.md R49). -/

namespace Sys2Proof.Config

/-- `REPEAT_DEPTH` (R3). -/
def repeatDepth : Nat := 8

/-- The tie marker `TIE` (R10). -/
def tieMarker : Byte := 0xE8

/-- The patch-table sentinel (R10, R58). -/
def patchSentinel : Byte := 0xFF

/-- The patch record size in bytes (R10, R58). -/
def patchRecordSize : Word := 7

/-- `TICK_NUM` (R9). -/
def tickNum : Nat := 100

/-- `TICK_DEN` (R9). -/
def tickDen : Nat := 5994

/-- The least tone period a Part emits (R10, R90). -/
def toneMin : Int := 1

/-- The greatest tone period a Part emits (R10, R90). -/
def toneMax : Int := 4095

/-- The greatest channel volume (R10, R23). -/
def volumeMax : Byte := 15

/-- The least accepted `SAMPLE_RATE` (R7). -/
def sampleRateMin : Nat := 60

/-- The greatest accepted `SAMPLE_RATE` (R7). -/
def sampleRateMax : Nat := 42949672

/-- The number of addresses of song memory (R4). A scan that has made this many probes without
stopping has made every probe it can ever make (log 9). -/
def addressCount : Nat := 65536

/-- A PCM sample's bit pattern. The block never looks inside one; 32 bits hold either format the
spec names (D31). DESIGN CHOICE, safe (log 12). -/
abbrev Sample := BitVec 32

/-- The value the sink returns for the `k`-th sample pull of a run: a draw the block does not
compute and no rule reads (R49, D31). A free value: it has no body (log 12). -/
opaque pcmSample : Nat → Sample

end Sys2Proof.Config
end

