-- ==== Sys2Proof/Syntax.lean ====
section
/-! DEFINITION. The FBD sequencer bytecode: one constructor per row of spec/opcode_table.json,
with the operands 30_encoding.md R51 and R53 give it. -/

namespace Sys2Proof

/-- One bytecode instruction with its operands as assembled by R53. -/
inductive Instr where
  /-- REST, format FR: `v = byte0[6:0]` (R93). -/
  | rest (v : BitVec 7)
  /-- NOTE, format FN: pitch `p = byte0[6:0]`, duration `d = byte1`, and whether the tie suffix
  0xE8 follows (R56, R94; log 11). -/
  | note (p : BitVec 7) (d : Byte) (tie : Bool)
  /-- SET_PATCH, format F1: patch number (R95). -/
  | setPatch (n : Byte)
  /-- SET_VOLUME, format F1 (R96). -/
  | setVolume (b : Byte)
  /-- REPEAT_START, format F1: count, 0 means infinite (R80). -/
  | repeatStart (c : Byte)
  /-- REPEAT_BREAK, format F0 (R81). -/
  | repeatBreak
  /-- REPEAT_END, format F0 (R82). -/
  | repeatEnd
  /-- SET_NOISE, format F1 (R99). -/
  | setNoise (b : Byte)
  /-- VOLUME_UP, format F0 (R97). -/
  | volumeUp
  /-- VOLUME_DOWN, format F0 (R98). -/
  | volumeDown
  /-- SET_DETUNE, format F2: a two's-complement i16 (R101). -/
  | setDetune (s : Word)
  /-- SET_LFO, format F5: three bytes and an i16 displacement (R102). -/
  | setLfo (delay speed depth : Byte) (displacement : Word)
  /-- LFO_ENABLE, format F1: nonzero enables (R103). -/
  | lfoEnable (b : Byte)
  /-- SET_MIX, format F1 (R100). -/
  | setMix (b : Byte)
  /-- TERM, format F0, carrying which of its 20 opcode bytes it is (R55, R104). -/
  | term (op : Byte)
deriving DecidableEq, Repr

/-- The row of spec/opcode_table.json an instruction belongs to. -/
def Instr.mnemonic : Instr → String
  | .rest _ => "REST"
  | .note _ _ _ => "NOTE"
  | .setPatch _ => "SET_PATCH"
  | .setVolume _ => "SET_VOLUME"
  | .repeatStart _ => "REPEAT_START"
  | .repeatBreak => "REPEAT_BREAK"
  | .repeatEnd => "REPEAT_END"
  | .setNoise _ => "SET_NOISE"
  | .volumeUp => "VOLUME_UP"
  | .volumeDown => "VOLUME_DOWN"
  | .setDetune _ => "SET_DETUNE"
  | .setLfo _ _ _ _ => "SET_LFO"
  | .lfoEnable _ => "LFO_ENABLE"
  | .setMix _ => "SET_MIX"
  | .term _ => "TERM"

/-- How many bytes an instruction occupies (30_encoding.md R52). -/
def Instr.length : Instr → Nat
  | .rest _ => 1
  | .note _ _ tie => if tie then 3 else 2
  | .setPatch _ => 2
  | .setVolume _ => 2
  | .repeatStart _ => 2
  | .repeatBreak => 1
  | .repeatEnd => 1
  | .setNoise _ => 2
  | .volumeUp => 1
  | .volumeDown => 1
  | .setDetune _ => 3
  | .setLfo _ _ _ _ => 6
  | .lfoEnable _ => 2
  | .setMix _ => 2
  | .term _ => 1

end Sys2Proof
end

