-- ==== Sys2Proof/WellFormed.lean ====
section
/-! DEFINITION. Which instruction terms have an encoding (30_encoding.md R51, R54). -/

namespace Sys2Proof

/-- Does this byte, in opcode position, select TERM? 0xE8 and 0xED to 0xFF (R54, R55). -/
def isTermOpcode (op : Byte) : Bool := op == 0xE8 || decide (0xED ≤ op)

/-- The check a term must pass to have an encoding: NOTE's pitch is at most 0x5F, since
0xE0 to 0xFF select other rows, and TERM's opcode is one of its 20 bytes (R51, R54). Every other
operand may take every value of its width. -/
def Instr.wellFormed : Instr → Bool
  | .rest _ => true
  | .note p _ _ => decide (p ≤ 0x5F)
  | .setPatch _ => true
  | .setVolume _ => true
  | .repeatStart _ => true
  | .repeatBreak => true
  | .repeatEnd => true
  | .setNoise _ => true
  | .volumeUp => true
  | .volumeDown => true
  | .setDetune _ => true
  | .setLfo _ _ _ _ => true
  | .lfoEnable _ => true
  | .setMix _ => true
  | .term op => isTermOpcode op

end Sys2Proof
end

