-- ==== Sys2Proof/Decode.lean ====
section
/-! DEFINITION. The decoder and the encoder of the bytecode (30_encoding.md R51 to R56). Every
opcode byte decodes (R52, R54), so the decoder rejects only a byte list that ends too early, and
names what is missing. -/

namespace Sys2Proof

/-- Little-endian assembly of a 16-bit value, low byte first (20_memory.md R35, R36). -/
def le16 (lo hi : Byte) : Word := lo.setWidth 16 ||| (hi.setWidth 16 <<< 8)

/-- The low byte of a 16-bit value, the one at the lower address (R36). -/
def loByte (w : Word) : Byte := w.setWidth 8

/-- The high byte of a 16-bit value (R36). -/
def hiByte (w : Word) : Byte := (w >>> 8).setWidth 8

/-- Why a byte list is not an instruction. -/
inductive DecodeError where
  /-- There is no opcode byte. -/
  | noOpcode
  /-- The list ends before the named instruction's last operand byte. -/
  | missingOperand (mnemonic : String)
deriving DecidableEq, Repr

/-- What decoding answers: the instruction and the bytes after it, or a rejection. -/
abbrev Decoded := Except DecodeError (Instr × List Byte)

/-- Format F1: one operand byte (R51). -/
def decodeByteOperand (mnemonic : String) (make : Byte → Instr) : List Byte → Decoded
  | b :: rest => .ok (make b, rest)
  | [] => .error (.missingOperand mnemonic)

/-- Format FN: the duration byte, then the tie suffix where the next byte is the tie marker
(R51, R56). -/
def decodeNote (p : BitVec 7) : List Byte → Decoded
  | d :: t :: rest =>
    if t = Config.tieMarker then .ok (.note p d true, rest) else .ok (.note p d false, t :: rest)
  | [d] => .ok (.note p d false, [])
  | [] => .error (.missingOperand "NOTE")

/-- Format F2: a little-endian 16-bit operand (R51, R53). -/
def decodeDetune : List Byte → Decoded
  | lo :: hi :: rest => .ok (.setDetune (le16 lo hi), rest)
  | _ => .error (.missingOperand "SET_DETUNE")

/-- Format F5: delay, speed, depth, then the little-endian displacement (R51, R53). -/
def decodeLfo : List Byte → Decoded
  | delay :: speed :: depth :: lo :: hi :: rest =>
    .ok (.setLfo delay speed depth (le16 lo hi), rest)
  | _ => .error (.missingOperand "SET_LFO")

/-- The opcode map (R54), applied to the opcode byte and the bytes after it. -/
def decodeOpcode (op : Byte) (rest : List Byte) : Decoded :=
  if op < 0x80 then .ok (.rest (op.setWidth 7), rest)
  else if op < 0xE0 then decodeNote (op.setWidth 7) rest
  else if op = 0xE0 then decodeByteOperand "SET_PATCH" .setPatch rest
  else if op = 0xE1 then decodeByteOperand "SET_VOLUME" .setVolume rest
  else if op = 0xE2 then decodeByteOperand "REPEAT_START" .repeatStart rest
  else if op = 0xE3 then .ok (.repeatBreak, rest)
  else if op = 0xE4 then .ok (.repeatEnd, rest)
  else if op = 0xE5 then decodeByteOperand "SET_NOISE" .setNoise rest
  else if op = 0xE6 then .ok (.volumeUp, rest)
  else if op = 0xE7 then .ok (.volumeDown, rest)
  else if op = 0xE9 then decodeDetune rest
  else if op = 0xEA then decodeLfo rest
  else if op = 0xEB then decodeByteOperand "LFO_ENABLE" .lfoEnable rest
  else if op = 0xEC then decodeByteOperand "SET_MIX" .setMix rest
  else .ok (.term op, rest)

/-- Decode the instruction at the head of a byte list. -/
def decode : List Byte → Decoded
  | [] => .error .noOpcode
  | op :: rest => decodeOpcode op rest

/-- Byte `k` of an instruction whose bits are numbered as spec/opcode_table.json numbers them. -/
def tableByte (w k : Nat) : Byte := BitVec.ofNat 8 (w >>> (8 * k))

/-- The six bytes, as many as the longest instruction has, of an instruction whose lowest `nbits`
bits are those of `w` and whose other bits are 0. -/
def tableBytes (nbits w : Nat) : List Byte :=
  let v := w % 2 ^ nbits
  [tableByte v 0, tableByte v 1, tableByte v 2, tableByte v 3, tableByte v 4, tableByte v 5]

/-- The instruction the decoder reads from an instruction's bits as the opcode table numbers
them. -/
def decodeTableWord (nbits w : Nat) : Option Instr :=
  match decode (tableBytes nbits w) with
  | .ok (i, _) => some i
  | .error _ => none

/-- The bytes of a well-formed instruction, first byte first (R51, R54). -/
def encode : Instr → List Byte
  | .rest v => [v.setWidth 8]
  | .note p d tie => [0x80 ||| p.setWidth 8, d] ++ (if tie then [Config.tieMarker] else [])
  | .setPatch n => [0xE0, n]
  | .setVolume b => [0xE1, b]
  | .repeatStart c => [0xE2, c]
  | .repeatBreak => [0xE3]
  | .repeatEnd => [0xE4]
  | .setNoise b => [0xE5, b]
  | .volumeUp => [0xE6]
  | .volumeDown => [0xE7]
  | .setDetune s => [0xE9, loByte s, hiByte s]
  | .setLfo delay speed depth x => [0xEA, delay, speed, depth, loByte x, hiByte x]
  | .lfoEnable b => [0xEB, b]
  | .setMix b => [0xEC, b]
  | .term op => [op]

end Sys2Proof
end

