-- ==== Sys2Proof/Machine/State.lean ====
section
/-! DEFINITION. The state of the block as plain data (10_state.md), the events and results it is
observed by (20_memory.md R45, 47_play_context.md R111), the reasons a step can stop, and the
power-on state. -/

namespace Sys2Proof.Machine

open Sys2Proof

/-! ### Parameters (10_state.md R15) -/

/-- Song memory as the bytes that are not zero, addresses rising (20_memory.md R33; log 4). -/
abbrev Memory := List Host.Cell

/-- The parameters of the block: arguments of the model that no step changes (R15). -/
structure Params where
  /-- `SONG[0..65535]` (20_memory.md R33). -/
  song : Memory
  /-- `BLOB_LEN`: how many bytes of song data are valid (00_scope.md R6). -/
  blobLen : Nat
  /-- `TONE_TABLE`, indexed by semitone (00_scope.md R5). -/
  toneTable : Vector Word 12
deriving DecidableEq, Repr

/-! ### Channels -/

/-- The three channel slots (00_scope.md R2). -/
inductive Channel where
  | ch0 | ch1 | ch2
deriving DecidableEq, Repr

/-- One thing for each channel. -/
structure PerChannel (α : Type) where
  ch0 : α
  ch1 : α
  ch2 : α
deriving DecidableEq, Repr

/-- The entry of a channel. -/
def PerChannel.get {α : Type} (v : PerChannel α) : Channel → α
  | .ch0 => v.ch0
  | .ch1 => v.ch1
  | .ch2 => v.ch2

/-- Replace the entry of a channel. -/
def PerChannel.set {α : Type} (v : PerChannel α) : Channel → α → PerChannel α
  | .ch0, x => { v with ch0 := x }
  | .ch1, x => { v with ch1 := x }
  | .ch2, x => { v with ch2 := x }

/-! ### The Envelope (10_state.md section 4) -/

/-- The envelope's phase (R25, R26). -/
inductive EnvPhase where
  | attack | decay | sustain | release
deriving DecidableEq, Repr

/-- The envelope of a Part (R25). -/
structure Envelope where
  current : Byte
  phase : EnvPhase
  attackLevel : Byte
  attackRate : Byte
  decayRate : Byte
  sustainLevel : Byte
  sustainRate : Byte
  releaseRate : Byte
deriving DecidableEq, Repr

/-! ### The PitchLFO (10_state.md section 5) -/

/-- The LFO of a Part (R27). `displacement`, `currentDisplacement` and `effect` are i16. -/
structure Lfo where
  enabled : Bool
  delay : Byte
  speed : Byte
  depth : Byte
  displacement : Word
  waitCount : Byte
  depthCount : Byte
  currentDisplacement : Word
  effect : Word
deriving DecidableEq, Repr

/-! ### The RepeatStack (10_state.md section 6) -/

/-- One loop frame (R28). `count = 0` marks an infinite loop; `endAddr` means something only where
`endValid` is set. -/
structure Frame where
  start : Word
  endValid : Bool
  endAddr : Word
  count : Byte
deriving DecidableEq, Repr

/-! ### The Part (10_state.md section 3) -/

/-- One channel sequencer (R18). -/
structure Part where
  /-- The program counter of the Part (R19). -/
  cursor : Word
  /-- The duration down-counter (R20). -/
  remainingTicks : Byte
  /-- Status flag: the last NOTE carried the tie suffix (R21). -/
  isTied : Bool
  /-- Status flag: the terminator has run (R21, R86). -/
  isEnded : Bool
  octave : Byte
  channelVolume : Byte
  baseTonePeriod : Word
  /-- An i16 (R22). -/
  detune : Word
  infiniteLoopCount : Word
  env : Envelope
  lfo : Lfo
  /-- The occupied frames of the RepeatStack, the top frame first. `rs.depth` is the length;
  `rs.frame[k]` of R28 is entry `length - 1 - k` (log 14). -/
  rs : List Frame
deriving DecidableEq, Repr

/-! ### The converter (10_state.md section 7) -/

/-- SamplesPerTick (R29). `error` is an i32. -/
structure SamplesPerTick where
  quotient : Word32
  remainder : Word32
  error : Word32
  remaining : Word32
deriving DecidableEq, Repr

/-! ### The output port (20_memory.md section 3) -/

/-- The output mode on the port (R46). -/
inductive OutputMode where
  | none | tone | noise | toneNoise
deriving DecidableEq, Repr

/-- One event of the output port, with the widths of R45. -/
inductive Event where
  | setTone (ch : Channel) (period : BitVec 12)
  | setVolume (ch : Channel) (vol : BitVec 4)
  | setMode (ch : Channel) (mode : OutputMode)
  | setNoise (period : Byte)
  | pull
deriving DecidableEq, Repr

/-- The registers of the sink as the events wrote them (R45, R48, 70_reset_and_hazards.md R133). -/
structure Sink where
  tone : PerChannel (BitVec 12)
  volume : PerChannel (BitVec 4)
  mode : PerChannel OutputMode
  noise : Byte
deriving DecidableEq, Repr

/-! ### Host operations and their results (47_play_context.md R111) -/

/-- An operation the host issues (R111). -/
inductive Request where
  | load (sampleRate : Word32) (maxLoopCount : Option Nat)
  | produce (n : Nat)
  | tick
  | finish
  | isPlaying
deriving DecidableEq, Repr

/-- The one cause of a model fault (60_exceptions.md R120). -/
inductive FaultCause where
  | readOutOfRange
deriving DecidableEq, Repr

/-- The cause code of R120. -/
def FaultCause.code : FaultCause → Nat
  | .readOutOfRange => 0

/-- The fault record reported to the host (R120): the cause, the first out-of-range byte address,
and the channel whose tick read it, or none during LOAD. -/
structure FaultRecord where
  cause : FaultCause
  addr : Word
  ch : Option Channel
deriving DecidableEq, Repr

/-- Why the block turns a request away (R121). -/
inductive RefusalReason where
  | sampleRateOutOfRange
  | notLoaded
  | faulted
deriving DecidableEq, Repr

/-- What an operation reports to the host (R111, R120, R121). LOAD and END, which have no result,
are acknowledged (log 24). -/
inductive Result where
  | loaded
  | produced (k : Nat)
  | ticked (playing : Bool)
  | ended
  | playing (b : Bool)
  | faulted (r : FaultRecord)
  | refused (r : RefusalReason)
deriving DecidableEq, Repr

/-! ### Where the operation in progress stands (43_part_tick.md R89; log 5) -/

/-- Which operation called `CtxTick`: the host's TICK, or PRODUCE(n) with `k` samples written. -/
inductive Caller where
  | tick
  | produce (n k : Nat)
deriving DecidableEq, Repr

/-- Where the operation in progress stands, one micro-step after another (R89; log 5). -/
inductive Activity where
  /-- Between host operations (60_exceptions.md R131). -/
  | idle
  /-- At the head of PRODUCE's loop (47_play_context.md R117). -/
  | producing (n k : Nat)
  /-- `CtxTick` is about to look at this slot (R113). -/
  | visiting (c : Caller) (ch : Channel)
  /-- This Part's consume loop is about to fetch an opcode (43_part_tick.md R88). -/
  | consuming (c : Caller) (ch : Channel)
  /-- This Part's tick has returned; `alive` is what it returned (R87). -/
  | returned (c : Caller) (ch : Channel) (alive : Bool)
  /-- The operation never completes: a scan goes round for ever (60_exceptions.md R122; log 9). -/
  | hung
deriving DecidableEq, Repr

/-! ### The whole state -/

/-- The block, its parameters, and what it is observed by. -/
structure State where
  /-- Parameters (R15): no step changes them. -/
  params : Params
  /-- `slot[ch]`: absent, or present with a Part (R16, R17). -/
  slots : PerChannel (Option Part)
  patchTableAddress : Word
  maxLoopCount : Option Nat
  spt : SamplesPerTick
  faulted : Bool
  loaded : Bool
  /-- The output event trace since LOAD, oldest first (R30). -/
  trace : List Event
  /-- The sink's registers (20_memory.md R45; log 15). -/
  sink : Sink
  /-- The model's own: where the operation in progress stands (log 5). -/
  activity : Activity
  /-- The model's own: the operations the host has issued and the block has not begun, oldest
  first (log 6). -/
  inbox : List Request
  /-- What the operations have reported to the host, oldest first (R30; log 6). -/
  results : List Result
  /-- The samples the latest PRODUCE has written, element 0 first (20_memory.md R49; log 13). -/
  buffer : List Config.Sample
  /-- The model's own: how many samples have been drawn (log 12). -/
  draws : Nat
deriving DecidableEq, Repr

/-- The reasons a step can stop the machine. No reachable state raises either (the architectural
model fault of 60_exceptions.md R120 is a next state, log 7). -/
inductive Fault where
  /-- Raised by a meaning that is run where no present Part is in its consume loop, which the spec
  gives no effect (43_part_tick.md R88). Safe (log 17). -/
  | noConsumingPart
  /-- Raised by the fetch if the six bytes it gives the decoder were rejected, which never happens
  (30_encoding.md R52). Safe (log 25). -/
  | undecodable
deriving DecidableEq, Repr

/-- The reasons exec can turn an instruction away. The refusals of 60_exceptions.md R121 are about
host requests and are next states (log 8). -/
inductive Refusal where
  /-- Raised by exec's arm for an instruction that has no meaning yet. Safe. -/
  | notModelled (mnemonic : String)
deriving DecidableEq, Repr

/-- What a step or a meaning answers. -/
abbrev Answer := Host.Outcome State Fault Refusal

/-! ### Power-on (70_reset_and_hazards.md R134) -/

/-- The sink's registers before the first LOAD has written them (log 15). -/
def Sink.powerOn : Sink where
  tone := ⟨0, 0, 0⟩
  volume := ⟨0, 0, 0⟩
  mode := ⟨.none, .none, .none⟩
  noise := 0

/-- The block at power-on with these parameters: `loaded = 0` (R134); every other field, which R134
leaves unspecified and nothing reads before a LOAD, at the value log 1 names. -/
def State.powerOn (P : Params) : State where
  params := P
  slots := ⟨none, none, none⟩
  patchTableAddress := 0
  maxLoopCount := none
  spt := ⟨0, 0, 0, 0⟩
  faulted := false
  loaded := false
  trace := []
  sink := Sink.powerOn
  activity := .idle
  inbox := []
  results := []
  buffer := []
  draws := 0

/-- The parameters of `State.reset`, where no host has provided any yet (log 3). -/
def Params.unset : Params where
  song := []
  blobLen := 1
  toneTable := Vector.replicate 12 0

/-- The machine right after power-on, before any LOAD (R134; log 1, log 2, log 3). The spec's own
reset is the LOAD operation (R132), a step of this machine. -/
def State.reset : State := State.powerOn Params.unset

end Sys2Proof.Machine
end

