-- ==== Sys2Proof/Machine/Flags.lean ====
section
/-! DEFINITION. The saturating and overflow computations of the block, and its status flags. The
block has no condition codes (10_state.md R21): what a flag computation would be elsewhere is here
the overflow test of the attack (40_envelope.md R64), the floors and ceilings of the counters, and
the writes of `is_tied` and `is_ended`. -/

namespace Sys2Proof.Machine

open Sys2Proof

/-- `sat_sub` on u8 (00_scope.md section 5). -/
def satSub (a b : Byte) : Byte := if a < b then 0 else a - b

/-- Does the exact 8-bit sum carry? (40_envelope.md R64: "the exact sum is 256 or more", D29). -/
def addOverflows (a b : Byte) : Bool := decide (255 < a.toNat + b.toNat)

/-- `min(x + 1, 65535)` on u16: the count of infinite passes (42_repeat_stack.md R82). -/
def countUp (x : Word) : Word := if x = 65535 then 65535 else x + 1

/-- `min(b, 15)` (45_commands.md R96). -/
def clampVolume (b : Byte) : Byte := if b < Config.volumeMax then b else Config.volumeMax

/-- `min(v + 1, 15)` (45_commands.md R97). -/
def volumeStepUp (v : Byte) : Byte := if v < Config.volumeMax then v + 1 else Config.volumeMax

/-- `sat_sub(v, 1)` (45_commands.md R98). -/
def volumeStepDown (v : Byte) : Byte := satSub v 1

/-- NOTE's tie check (44_notes_rests.md R94): with the tie marker the cursor passes it and the tie
flag is set, without it the flag is cleared. -/
def Part.tieCheck (p : Part) (tie : Bool) : Part :=
  if tie then { p with cursor := p.cursor + 1, isTied := true } else { p with isTied := false }

/-- The terminator's write of the end flag (45_commands.md R104). -/
def Part.markEnded (p : Part) : Part := { p with isEnded := true }

end Sys2Proof.Machine
end

