-- ==== Sys2Proof/Machine/Ops.lean ====
section
/-! DEFINITION. The shared operations over song memory and the block's state: reads (20_memory.md
R34, R35), events (R45), writes of a Part, results, and the model fault (60_exceptions.md R120). -/

namespace Sys2Proof.Machine

open Sys2Proof

/-! ### Song memory -/

/-- What an address that is not listed holds (log 4). -/
def Memory.unlisted : Byte := 0

/-- `SONG[a]`. -/
def Memory.read : Memory → Nat → Byte
  | [], _ => Memory.unlisted
  | (k, v) :: rest, a => if a = k then v else Memory.read rest a

/-- Fill one location: what the host does before a session (70_reset_and_hazards.md R135). The block
itself never writes song memory (20_memory.md R39). -/
def Memory.write : Memory → Nat → Byte → Memory
  | [], a, b => if b = Memory.unlisted then [] else [(a, b)]
  | (k, v) :: rest, a, b =>
    if a < k then (if b = Memory.unlisted then (k, v) :: rest else (a, b) :: (k, v) :: rest)
    else if a = k then (if b = Memory.unlisted then rest else (k, b) :: rest)
    else (k, v) :: Memory.write rest a b

/-- Every listed address is at least `lo` and inside the 16-bit space, addresses rise strictly, and
no listed byte equals what an unlisted address holds. -/
def Memory.wfFrom : Nat → Memory → Bool
  | _, [] => true
  | lo, (k, v) :: rest =>
    decide (lo ≤ k) && decide (k < Config.addressCount) && !decide (v = Memory.unlisted)
      && Memory.wfFrom (k + 1) rest

/-- The canonical form of song memory. -/
def Memory.wf (m : Memory) : Bool := Memory.wfFrom 0 m

/-- Fill the bytes of a list at an address and after it, addresses wrapping modulo 2^16. -/
def Memory.writeBytes (m : Memory) (a : Word) : List Byte → Memory
  | [] => m
  | b :: rest => Memory.writeBytes (Memory.write m a.toNat b) (a + 1) rest

/-- `SONG[a]` whether or not `a` is inside the blob. -/
def Params.songByte (P : Params) (a : Word) : Byte := Memory.read P.song a.toNat

/-- A read either gives a value or names the first out-of-range address (20_memory.md R34). -/
abbrev Read := Except Word

/-- `MemRead(a, 1)` (20_memory.md R34). -/
def Params.readByte (P : Params) (a : Word) : Read Byte :=
  if a.toNat < P.blobLen then .ok (P.songByte a) else .error a

/-- `MemRead(a, 2)`: low byte at `a`, high byte at `wrap16(a + 1)` (20_memory.md R35). -/
def Params.readShort (P : Params) (a : Word) : Read Word :=
  match P.readByte a with
  | .error x => .error x
  | .ok lo =>
    match P.readByte (a + 1) with
    | .error x => .error x
    | .ok hi => .ok (le16 lo hi)

/-! ### Output events -/

/-- What an event does to the sink's registers (20_memory.md R45, R48). -/
def Sink.apply (k : Sink) : Event → Sink
  | .setTone ch v => { k with tone := k.tone.set ch v }
  | .setVolume ch v => { k with volume := k.volume.set ch v }
  | .setMode ch m => { k with mode := k.mode.set ch m }
  | .setNoise v => { k with noise := v }
  | .pull => k

/-- `emit E` (00_scope.md section 5). -/
def State.emit (s : State) (e : Event) : State :=
  { s with trace := s.trace ++ [e], sink := s.sink.apply e }

/-- Emit several events in order. -/
def State.emitAll (s : State) : List Event → State
  | [] => s
  | e :: rest => (s.emit e).emitAll rest

/-! ### Slots, results, control -/

/-- Store a Part back into its slot. -/
def State.putPart (s : State) (ch : Channel) (p : Part) : State :=
  { s with slots := s.slots.set ch (some p) }

/-- Make a slot absent (10_state.md R17). -/
def State.dropPart (s : State) (ch : Channel) : State :=
  { s with slots := s.slots.set ch none }

/-- Move the operation in progress on (log 5). -/
def State.goto (s : State) (a : Activity) : State := { s with activity := a }

/-- The operation in progress completes with this result; the block is idle again. -/
def State.complete (s : State) (r : Result) : State :=
  { s with results := s.results ++ [r], activity := .idle }

/-! ### The model fault (60_exceptions.md R120) -/

/-- `raise Fault(ReadOutOfRange(addr))`: the operation in progress stops here, `faulted <- 1`, the
fault record is its result; every write and event before the read stands. -/
def State.raise (s : State) (addr : Word) (ch : Option Channel) : State :=
  { s with
    faulted := true
    results := s.results ++ [.faulted ⟨.readOutOfRange, addr, ch⟩]
    activity := .idle }

/-- The model fault inside a Part's opcode: the Part's writes so far stand. -/
def State.raiseIn (s : State) (ch : Channel) (p : Part) (addr : Word) : State :=
  (s.putPart ch p).raise addr (some ch)

/-- What the block turns a request other than LOAD away for, if anything (R121, R125 point 5).
There is no way back from a fault but LOAD (R120, R124). -/
def State.gate (s : State) : Option RefusalReason :=
  if s.loaded = false then some .notLoaded else if s.faulted then some .faulted else none

/-! ### The consume loop's frame -/

/-- Run a meaning on the Part whose consume loop is in progress (43_part_tick.md R88). -/
def inConsume (s : State) (body : Caller → Channel → Part → State) : Answer :=
  match s.activity with
  | .consuming c ch =>
    match s.slots.get ch with
    | some p => .next (body c ch p)
    | none => .fault .noConsumingPart
  | _ => .fault .noConsumingPart

end Sys2Proof.Machine
end

