-- ==== Sys2Proof/Machine/Operands.lean ====
section
/-! DEFINITION. Operands: fetching them at the cursor (00_scope.md section 5, Fetch8 and Fetch16)
and what each operand form means (30_encoding.md R53).

An instruction carries its operand values, as the decoder read them from the bytes at the cursor.
Fetching an operand here checks that its bytes are in range, raises the model fault where they are
not, and advances the cursor (log 10). -/

namespace Sys2Proof.Machine

open Sys2Proof

/-- `Fetch8` less its value: the range check and the advance. -/
def Part.passByte (P : Params) (p : Part) : Read Part :=
  match P.readByte p.cursor with
  | .error a => .error a
  | .ok _ => .ok { p with cursor := p.cursor + 1 }

/-- `Fetch16` less its value: the range checks and the advance. A fault on either byte leaves the
cursor where it was. -/
def Part.passShort (P : Params) (p : Part) : Read Part :=
  match P.readShort p.cursor with
  | .error a => .error a
  | .ok _ => .ok { p with cursor := p.cursor + 2 }

/-- Fetch a one-byte operand, then go on with the Part past it. -/
def State.afterByte (s : State) (ch : Channel) (p : Part) (go : Part → State) : State :=
  match p.passByte s.params with
  | .error a => s.raiseIn ch p a
  | .ok p' => go p'

/-- Fetch a two-byte operand, then go on with the Part past it. -/
def State.afterShort (s : State) (ch : Channel) (p : Part) (go : Part → State) : State :=
  match p.passShort s.params with
  | .error a => s.raiseIn ch p a
  | .ok p' => go p'

/-- REST's operand as a duration: `v + 1`, in 1..128 (R53, R93). -/
def restTicks (v : BitVec 7) : Byte := v.setWidth 8 + 1

/-- NOTE's semitone `p % 12` (R53). -/
def semitone (p : BitVec 7) : Nat := p.toNat % 12

/-- NOTE's octave `p / 12` (R53). -/
def octaveOf (p : BitVec 7) : Byte := BitVec.ofNat 8 (p.toNat / 12)

/-- `TONE_TABLE[p % 12]` (00_scope.md R5, R94). -/
def Params.tonePeriod (P : Params) (p : BitVec 7) : Word :=
  P.toneTable[semitone p]'(Nat.mod_lt _ (by decide))

/-- SET_MIX's operand as an output mode (45_commands.md R100). -/
def mixMode (b : Byte) : OutputMode :=
  if b = 1 then .tone else if b = 2 then .noise else if b = 3 then .toneNoise else .none

/-- The port's code of an output mode (20_memory.md R46). -/
def modeCode : OutputMode → BitVec 2
  | .none => 0
  | .tone => 1
  | .noise => 2
  | .toneNoise => 3

/-- LFO_ENABLE's operand: nonzero enables (45_commands.md R103). -/
def enableBit (b : Byte) : Bool := b != 0

/-- The internal code of an envelope phase (10_state.md R26). -/
def phaseCode : EnvPhase → BitVec 2
  | .attack => 0
  | .decay => 1
  | .sustain => 2
  | .release => 3

end Sys2Proof.Machine
end

