-- ==== Sys2Proof/Machine/Envelope.lean ====
section
/-! DEFINITION. The envelope generator (40_envelope.md): EnvSet, EnvAttack, EnvRelease,
EnvUpdate. -/

namespace Sys2Proof.Machine

open Sys2Proof

/-! ### EnvSet (R60) -/

/-- How the scan of the patch table ends (R60). -/
inductive PatchScan where
  /-- The record with the wanted number starts here. -/
  | found (record : Word)
  /-- The sentinel was read first. -/
  | sentinel
  /-- A read fell outside the blob. -/
  | out (addr : Word)
  /-- The scan goes round the whole address space for ever (R60, R137). -/
  | endless
deriving DecidableEq, Repr

/-- The scan of R60 from record address `a`: the sentinel is tested first (D17), then the number,
then the scan moves 7 bytes on. It makes at most `fuel` probes; with `fuel` the number of addresses
it has probed every address before it gives up, so giving up means that it never ends (log 9). -/
def patchScan (P : Params) (n : Byte) : Nat → Word → PatchScan
  | 0, _ => .endless
  | fuel + 1, a =>
    match P.readByte a with
    | .error x => .out x
    | .ok num =>
      if num = Config.patchSentinel then .sentinel
      else if num = n then .found a
      else patchScan P n fuel (a + Config.patchRecordSize)

/-- The writes of a patch record's bytes 1 to 6, in order (30_encoding.md R58). -/
def patchWriters : List (Byte → Envelope → Envelope) :=
  [ fun v e => { e with attackLevel := v }
  , fun v e => { e with attackRate := v }
  , fun v e => { e with decayRate := v }
  , fun v e => { e with sustainLevel := v }
  , fun v e => { e with sustainRate := v }
  , fun v e => { e with releaseRate := v } ]

/-- Read a byte for each writer, from address `a` up. A read outside the blob stops with the writes
made so far and its address (R60, Faults). -/
def loadPatch (P : Params) :
    List (Byte → Envelope → Envelope) → Word → Envelope → Envelope × Option Word
  | [], _, e => (e, none)
  | write :: rest, a, e =>
    match P.readByte a with
    | .error x => (e, some x)
    | .ok v => loadPatch P rest (a + 1) (write v e)

/-- What EnvSet does (R60). -/
inductive EnvSetEnd where
  /-- It returned whether a record matched. -/
  | done (e : Envelope) (matched : Bool)
  /-- It raised `ReadOutOfRange`, with the envelope as it then stood. -/
  | out (e : Envelope) (addr : Word)
  /-- It never returns. -/
  | endless
deriving DecidableEq, Repr

/-- `EnvSet(e, n, table)` (R60). -/
def envSet (P : Params) (e : Envelope) (n : Byte) (table : Word) : EnvSetEnd :=
  match patchScan P n Config.addressCount table with
  | .sentinel => .done e false
  | .out x => .out e x
  | .endless => .endless
  | .found a =>
    match loadPatch P patchWriters (a + 1) e with
    | (e', none) => .done e' true
    | (e', some x) => .out e' x

/-! ### EnvAttack, EnvRelease, EnvUpdate -/

/-- `EnvAttack(e)` (R61). -/
def Envelope.attack (e : Envelope) : Envelope :=
  { e with
    current := e.attackLevel
    phase := if e.attackLevel = 255 then .decay else .attack }

/-- `EnvRelease(e)` (R62). -/
def Envelope.release (e : Envelope) : Envelope := { e with phase := .release }

/-- The Attack phase of `EnvUpdate` (R64). -/
def Envelope.attackStep (e : Envelope) : Envelope :=
  if addOverflows e.current e.attackRate then { e with current := 255, phase := .decay }
  else { e with current := e.current + e.attackRate }

/-- The Decay phase of `EnvUpdate` (R65). -/
def Envelope.decayStep (e : Envelope) : Envelope :=
  let r := satSub e.current e.decayRate
  if r < e.sustainLevel then { e with current := e.sustainLevel, phase := .sustain }
  else { e with current := r }

/-- The Sustain phase of `EnvUpdate` (R66). -/
def Envelope.sustainStep (e : Envelope) : Envelope :=
  { e with current := satSub e.current e.sustainRate }

/-- The Release phase of `EnvUpdate` (R67). -/
def Envelope.releaseStep (e : Envelope) : Envelope :=
  { e with current := satSub e.current e.releaseRate }

/-- `EnvUpdate(e)`: one amplitude step, chosen by the phase (R63). -/
def Envelope.update (e : Envelope) : Envelope :=
  match e.phase with
  | .attack => e.attackStep
  | .decay => e.decayStep
  | .sustain => e.sustainStep
  | .release => e.releaseStep

end Sys2Proof.Machine
end

