-- ==== Sys2Proof/Machine/PitchLfo.lean ====
section
/-! DEFINITION. The pitch LFO (41_pitch_lfo.md): LfoSetParameter, LfoSetEnable, LfoReset,
LfoUpdate. -/

namespace Sys2Proof.Machine

open Sys2Proof

/-- `LfoReset(l)` (R72). -/
def Lfo.restart (l : Lfo) : Lfo :=
  { l with
    waitCount := l.delay
    depthCount := l.depth >>> 1
    currentDisplacement := l.displacement
    effect := 0 }

/-- `LfoSetParameter(l, delay, speed, depth, displacement)` (R70). -/
def Lfo.setParameter (l : Lfo) (delay speed depth : Byte) (displacement : Word) : Lfo :=
  Lfo.restart
    { l with
      delay := delay
      speed := speed
      depth := depth
      displacement := displacement
      enabled := true }

/-- `LfoSetEnable(l, b)` (R71). -/
def Lfo.setEnable (l : Lfo) (b : Bool) : Lfo := Lfo.restart { l with enabled := b }

/-- The fire of `LfoUpdate` (R73): reload the wait counter, add the displacement, count the depth
down, and where it reaches zero reload it and flip the displacement's sign. Both 16-bit registers
wrap (D10), both counters saturate at 0 (D8). -/
def Lfo.fire (l : Lfo) : Lfo :=
  let counted := satSub l.depthCount 1
  { l with
    waitCount := l.speed
    effect := l.effect + l.currentDisplacement
    depthCount := if counted = 0 then l.depth else counted
    currentDisplacement := if counted = 0 then -l.currentDisplacement else l.currentDisplacement }

/-- `LfoUpdate(l)` and whether it fired (R73). -/
def Lfo.update (l : Lfo) : Lfo × Bool :=
  if l.enabled = false then (l, false)
  else if satSub l.waitCount 1 ≠ 0 then ({ l with waitCount := satSub l.waitCount 1 }, false)
  else (l.fire, true)

end Sys2Proof.Machine
end

