-- ==== Sys2Proof/Machine/Commands.lean ====
section
/-! DEFINITION. The commands and the terminator (45_commands.md). Each meaning runs with the cursor
just past the opcode byte; a command continues the consume loop, the terminator ends it. -/

namespace Sys2Proof.Machine

open Sys2Proof

/-- SET_PATCH once its operand is fetched (R95): EnvSet with its result ignored. A scan that never
ends hangs the operation (40_envelope.md R60, 60_exceptions.md R122). -/
def State.usePatch (s : State) (ch : Channel) (p : Part) (n : Byte) : State :=
  match envSet s.params p.env n s.patchTableAddress with
  | .done e _ => s.putPart ch { p with env := e }
  | .out e a => s.raiseIn ch { p with env := e } a
  | .endless => (s.putPart ch p).goto .hung

/-- SET_PATCH (R95). -/
def execSetPatch (n : Byte) (s : State) : Answer :=
  inConsume s fun _ ch p => s.afterByte ch p fun p' => s.usePatch ch p' n

/-- SET_VOLUME (R96). -/
def execSetVolume (b : Byte) (s : State) : Answer :=
  inConsume s fun _ ch p =>
    s.afterByte ch p fun p' => s.putPart ch { p' with channelVolume := clampVolume b }

/-- VOLUME_UP (R97). -/
def execVolumeUp (s : State) : Answer :=
  inConsume s fun _ ch p => s.putPart ch { p with channelVolume := volumeStepUp p.channelVolume }

/-- VOLUME_DOWN (R98). -/
def execVolumeDown (s : State) : Answer :=
  inConsume s fun _ ch p => s.putPart ch { p with channelVolume := volumeStepDown p.channelVolume }

/-- SET_NOISE (R99): the event goes out at once. -/
def execSetNoise (b : Byte) (s : State) : Answer :=
  inConsume s fun _ ch p => s.afterByte ch p fun p' => (s.putPart ch p').emit (.setNoise b)

/-- SET_MIX (R100): the event goes out at once. -/
def execSetMix (b : Byte) (s : State) : Answer :=
  inConsume s fun _ ch p =>
    s.afterByte ch p fun p' => (s.putPart ch p').emit (.setMode ch (mixMode b))

/-- SET_DETUNE (R101). -/
def execSetDetune (d : Word) (s : State) : Answer :=
  inConsume s fun _ ch p => s.afterShort ch p fun p' => s.putPart ch { p' with detune := d }

/-- SET_LFO (R102): three byte fetches and a short fetch, each of which can fault with the cursor
past the operands fetched before it, then LfoSetParameter. -/
def execSetLfo (delay speed depth : Byte) (displacement : Word) (s : State) : Answer :=
  inConsume s fun _ ch p =>
    s.afterByte ch p fun p1 => s.afterByte ch p1 fun p2 => s.afterByte ch p2 fun p3 =>
      s.afterShort ch p3 fun p4 =>
        s.putPart ch { p4 with lfo := p4.lfo.setParameter delay speed depth displacement }

/-- LFO_ENABLE (R103). -/
def execLfoEnable (b : Byte) (s : State) : Answer :=
  inConsume s fun _ ch p =>
    s.afterByte ch p fun p' => s.putPart ch { p' with lfo := p'.lfo.setEnable (enableBit b) }

/-- TERM (R104): `SetVolume(ch, 0)`, the end flag, and the consume loop ends with "not playing".
Which of its 20 opcode bytes was read changes nothing. -/
def execTerm (_op : Byte) (s : State) : Answer :=
  inConsume s fun c ch p =>
    ((s.emit (.setVolume ch 0)).putPart ch p.markEnded).goto (.returned c ch false)

end Sys2Proof.Machine
end

