-- ==== Sys2Proof/Machine/Output.lean ====
section
/-! DEFINITION. The output functions of a Part: the tone period and the volume it writes to the
sink (43_part_tick.md R90, R91). -/

namespace Sys2Proof.Machine

open Sys2Proof

/-- The exact sum of R90 (D11). -/
def Part.toneSum (p : Part) : Int :=
  (p.baseTonePeriod.toNat : Int) + p.detune.toInt + p.lfo.effect.toInt

/-- `clamp(x, 1, 4095)` as the port's 12 bits (R90, 20_memory.md R45). -/
def clampPeriod (x : Int) : BitVec 12 :=
  BitVec.ofInt 12 (min (max x Config.toneMin) Config.toneMax)

/-- `ToneOut(p)` (R90). The shift is the floor of the division by `2^octave`. -/
def Part.toneOut (p : Part) : BitVec 12 := clampPeriod (p.toneSum >>> p.octave.toNat)

/-- `VolOut(p)` as the port's 4 bits (R91, 20_memory.md R45). For a `channel_volume` above 15,
which no rule can write (10_state.md R31), the product is cut to 4 bits (log 18). -/
def Part.volOut (p : Part) : BitVec 4 :=
  BitVec.ofNat 4 ((p.env.current.toNat * p.channelVolume.toNat) / 256)

end Sys2Proof.Machine
end

