-- ==== Sys2Proof/Machine/Notes.lean ====
section
/-! DEFINITION. The duration-bearing opcodes REST and NOTE (44_notes_rests.md). Each meaning runs
with the cursor just past the opcode byte (43_part_tick.md R88). -/

namespace Sys2Proof.Machine

open Sys2Proof

/-- REST's writes on its Part (R93): the duration, and the release unless tied. -/
def Part.beginRest (p : Part) (v : BitVec 7) : Part :=
  { p with
    remainingTicks := restTicks v
    env := if p.isTied then p.env else p.env.release }

/-- REST (R93): no event; the consume loop ends and the Part plays on. -/
def execRest (v : BitVec 7) (s : State) : Answer :=
  inConsume s fun c ch p => (s.putPart ch (p.beginRest v)).goto (.returned c ch true)

/-- NOTE's writes before its duration byte is fetched (R94): the pitch. -/
def Part.setPitch (P : Params) (p : Part) (pitch : BitVec 7) : Part :=
  { p with baseTonePeriod := P.tonePeriod pitch, octave := octaveOf pitch }

/-- NOTE's writes between its duration fetch and its peek (R94): the duration, and the retrigger
of envelope and LFO unless the previous NOTE was tied. -/
def Part.beginNote (p : Part) (d : Byte) : Part :=
  { p with
    remainingTicks := d
    env := if p.isTied then p.env else p.env.attack
    lfo := if p.isTied then p.lfo else p.lfo.restart }

/-- NOTE's last writes (R94): the tone period and the volume go to the sink, the consume loop ends
and the Part plays on. -/
def State.sound (s : State) (c : Caller) (ch : Channel) (p : Part) : State :=
  (((s.putPart ch p).emit (.setTone ch p.toneOut)).emit (.setVolume ch p.volOut)).goto
    (.returned c ch true)

/-- NOTE once its duration is fetched (R94): the retrigger, the tie peek, which is a read without an
advance and can fault, and the tie check: the cursor passes the byte only where it is the tie
marker. -/
def State.strike (s : State) (c : Caller) (ch : Channel) (begun : Part) (tie : Bool) : State :=
  match s.params.readByte begun.cursor with
  | .error a => s.raiseIn ch begun a
  | .ok _ => s.sound c ch (begun.tieCheck tie)

/-- NOTE (R94). The duration fetch and the tie peek can fault. -/
def execNote (pitch : BitVec 7) (d : Byte) (tie : Bool) (s : State) : Answer :=
  inConsume s fun c ch p =>
    s.afterByte ch (p.setPitch s.params pitch) fun p' => s.strike c ch (p'.beginNote d) tie

end Sys2Proof.Machine
end

