-- ==== Sys2Proof/Machine/Repeat.lean ====
section
/-! DEFINITION. The repeat stack and its opcodes (42_repeat_stack.md), the bytecode's only control
transfers. -/

namespace Sys2Proof.Machine

open Sys2Proof

/-- `RsStart(rs, count, addr)` (R77): a push on a full stack is dropped. -/
def rsStart (rs : List Frame) (count : Byte) (addr : Word) : List Frame :=
  if rs.length < Config.repeatDepth then ⟨addr, false, 0, count⟩ :: rs else rs

/-- `RsBreakIfLast(rs, p)` (R78). -/
def Part.breakIfLast (p : Part) : Part :=
  match p.rs with
  | [] => p
  | f :: rest =>
    if f.count = 1 ∧ f.endValid = true then { p with cursor := f.endAddr, rs := rest } else p

/-- The jump back of R79: `end` records the cursor, and the cursor goes to `start`. -/
def Part.jumpBack (p : Part) (f : Frame) (rest : List Frame) : Part :=
  { p with
    cursor := f.start
    rs := { f with endValid := true, endAddr := p.cursor } :: rest }

/-- `RsEnd(rs, p)` and whether the frame is infinite (R79). -/
def Part.closePass (p : Part) : Part × Bool :=
  match p.rs with
  | [] => (p, false)
  | f :: rest =>
    if f.count = 0 then (p.jumpBack f rest, true)
    else if f.count - 1 ≠ 0 then (p.jumpBack { f with count := f.count - 1 } rest, false)
    else ({ p with rs := rest }, false)

/-- REPEAT_START (R80): the frame's start is the address after the count byte. -/
def execRepeatStart (count : Byte) (s : State) : Answer :=
  inConsume s fun _ ch p =>
    s.afterByte ch p fun p' => s.putPart ch { p' with rs := rsStart p'.rs count p'.cursor }

/-- REPEAT_BREAK (R81). -/
def execRepeatBreak (s : State) : Answer :=
  inConsume s fun _ ch p => s.putPart ch p.breakIfLast

/-- REPEAT_END (R82): an infinite pass counts up, saturating at 65535. -/
def execRepeatEnd (s : State) : Answer :=
  inConsume s fun _ ch p =>
    match p.closePass with
    | (p', true) => s.putPart ch { p' with infiniteLoopCount := countUp p'.infiniteLoopCount }
    | (p', false) => s.putPart ch p'

end Sys2Proof.Machine
end

