-- ==== Sys2Proof/Machine/Dispatch.lean ====
section
/-! DEFINITION. One arm per instruction: the dispatch of the consume loop (43_part_tick.md R88). -/

namespace Sys2Proof.Machine

open Sys2Proof

def exec (i : Instr) (s : State) : Host.Outcome State Fault Refusal :=
  match i with
  | .rest v => Sys2Proof.Machine.execRest v s
  | .note p d tie => Sys2Proof.Machine.execNote p d tie s
  | .setPatch n => Sys2Proof.Machine.execSetPatch n s
  | .setVolume b => Sys2Proof.Machine.execSetVolume b s
  | .repeatStart c => Sys2Proof.Machine.execRepeatStart c s
  | .repeatBreak => Sys2Proof.Machine.execRepeatBreak s
  | .repeatEnd => Sys2Proof.Machine.execRepeatEnd s
  | .setNoise b => Sys2Proof.Machine.execSetNoise b s
  | .volumeUp => Sys2Proof.Machine.execVolumeUp s
  | .volumeDown => Sys2Proof.Machine.execVolumeDown s
  | .setDetune d => Sys2Proof.Machine.execSetDetune d s
  | .setLfo delay speed depth x => Sys2Proof.Machine.execSetLfo delay speed depth x s
  | .lfoEnable b => Sys2Proof.Machine.execLfoEnable b s
  | .setMix b => Sys2Proof.Machine.execSetMix b s
  | .term op => Sys2Proof.Machine.execTerm op s

end Sys2Proof.Machine
end

