-- ==== Sys2Proof/Machine/NewPart.lean ====
section
/-! DEFINITION. The state of a Part just created: what LOAD gives a used channel
(70_reset_and_hazards.md R132, R133). -/

namespace Sys2Proof.Machine

open Sys2Proof

/-- The envelope of a Part just created (R25, R133): the default patch, silent, in Release. -/
def Envelope.fresh : Envelope where
  current := 0
  phase := .release
  attackLevel := 255
  attackRate := 255
  decayRate := 0
  sustainLevel := 0
  sustainRate := 0
  releaseRate := 255

/-- The LFO of a Part just created: disabled, every field 0 (R27, R133). -/
def Lfo.fresh : Lfo where
  enabled := false
  delay := 0
  speed := 0
  depth := 0
  displacement := 0
  waitCount := 0
  depthCount := 0
  currentDisplacement := 0
  effect := 0

/-- `NewPart(a)` (70_reset_and_hazards.md R132, R133). -/
def Part.fresh (start : Word) : Part where
  cursor := start
  remainingTicks := 1
  isTied := false
  isEnded := false
  octave := 0
  channelVolume := 15
  baseTonePeriod := 0
  detune := 0
  infiniteLoopCount := 0
  env := Envelope.fresh
  lfo := Lfo.fresh
  rs := []

end Sys2Proof.Machine
end

