-- ==== Sys2Proof/Machine/Fetch.lean ====
section
/-! DEFINITION. Fetching an instruction in the consume loop (43_part_tick.md R88), and placing one
where the next fetch finds it. -/

namespace Sys2Proof.Machine

open Sys2Proof

/-- The six bytes from an address up, addresses wrapping: as many as the longest instruction has
(30_encoding.md R52). Operand bytes outside the blob are among them; the meaning that would use one
faults before it does (log 10). -/
def Params.window (P : Params) (a : Word) : List Byte :=
  [P.songByte a, P.songByte (a + 1), P.songByte (a + 2), P.songByte (a + 3), P.songByte (a + 4),
    P.songByte (a + 5)]

/-- What a fetch gives. -/
inductive Fetched where
  /-- This instruction, with the cursor past its opcode byte. -/
  | run (i : Instr) (s : State)
  /-- The opcode byte is outside the blob: the model fault is taken. -/
  | raised (s : State)
  /-- The machine cannot go on. -/
  | stop (f : Fault)
deriving DecidableEq, Repr

/-- `op <- Fetch8(p)` (R88) and the instruction it begins. -/
def State.fetch (s : State) (ch : Channel) : Fetched :=
  match s.slots.get ch with
  | none => .stop .noConsumingPart
  | some p =>
    match p.passByte s.params with
    | .error a => .raised (s.raiseIn ch p a)
    | .ok p' =>
      match decode (s.params.window p.cursor) with
      | .ok (i, _) => .run i (s.putPart ch p')
      | .error _ => .stop .undecodable

/-! ### Placing an instruction (log 2) -/

/-- Which channel's consume loop a placed instruction is for: the one in progress, else channel 0
of a host TICK. -/
def placedAt (a : Activity) : Caller × Channel :=
  match a with
  | .consuming c ch => (c, ch)
  | _ => (.tick, .ch0)

/-- The Part a placed instruction is for: the one in the slot, else a Part just created at the song's
first address. -/
def placedPart (slot : Option Part) : Part := slot.getD (Part.fresh 0)

/-- The parameters with these bytes placed at an address, and the blob long enough to hold them. -/
def Params.place (P : Params) (a : Word) (bytes : List Byte) : Params :=
  { P with
    song := Memory.writeBytes P.song a bytes
    blobLen := max P.blobLen (min (a.toNat + bytes.length) Config.addressCount) }

end Sys2Proof.Machine
end

