-- ==== Sys2Proof/Machine/Consume.lean ====
section
/-! DEFINITION. One iteration of the consume loop (43_part_tick.md R88). -/

namespace Sys2Proof.Machine

open Sys2Proof

/-- The consume loop's next turn: fetch, decode, execute (43_part_tick.md R88). -/
def consumeTurn (s : State) (ch : Channel) : Answer :=
  match s.fetch ch with
  | .run i s' => exec i s'
  | .raised s' => .next s'
  | .stop f => .fault f

end Sys2Proof.Machine
end

