-- ==== Sys2Proof/Machine/Converter.lean ====
section
/-! DEFINITION. The tick-to-sample converter (46_samples_per_tick.md R105, R106). -/

namespace Sys2Proof.Machine

open Sys2Proof

/-- `SptNext()`: the converter afterwards, and the next tick's sample count (R106). The sum is
exact; `error` is narrowed to its 32 bits. -/
def SamplesPerTick.next (c : SamplesPerTick) : SamplesPerTick × Word32 :=
  let e : Int := c.error.toInt + (c.remainder.toNat : Int)
  if 0 ≤ e then ({ c with error := BitVec.ofInt 32 (e - Config.tickDen) }, c.quotient + 1)
  else ({ c with error := BitVec.ofInt 32 e }, c.quotient)

/-- `spt.remaining <- SptNext()` (R105, 47_play_context.md R117). -/
def SamplesPerTick.refill (c : SamplesPerTick) : SamplesPerTick :=
  { c.next.1 with remaining := c.next.2 }

/-- `SptInit(sr)` (R105), primed with one `SptNext`. -/
def SamplesPerTick.init (sampleRate : Word32) : SamplesPerTick :=
  let S := sampleRate.toNat * Config.tickNum
  SamplesPerTick.refill
    { quotient := BitVec.ofNat 32 (S / Config.tickDen)
      remainder := BitVec.ofNat 32 (S % Config.tickDen)
      error := BitVec.ofInt 32 (-Config.tickDen)
      remaining := 0 }

/-- One sample of the budget is used up (R117; at 0 the u32 wraps, log 19). -/
def SamplesPerTick.spend (c : SamplesPerTick) : SamplesPerTick :=
  { c with remaining := c.remaining - 1 }

end Sys2Proof.Machine
end

