-- ==== Sys2Proof/Machine/Tick.lean ====
section
/-! DEFINITION. The Part's tick (43_part_tick.md R87): the decrement, the continuing tick, and the
entry into the consume loop at a boundary tick. -/

namespace Sys2Proof.Machine

open Sys2Proof

/-- The tone write of a continuing tick: only where the LFO fired (R87, D12). -/
def toneEvents (ch : Channel) (fired : Bool) (p : Part) : List Event :=
  if fired then [.setTone ch p.toneOut] else []

/-- A continuing tick of a Part: LFO, tone write if it fired, envelope, volume write (R87). -/
def Part.continueTick (ch : Channel) (p : Part) : Part × List Event :=
  let p1 := { p with lfo := p.lfo.update.1 }
  let p2 := { p1 with env := p1.env.update }
  (p2, toneEvents ch p.lfo.update.2 p1 ++ [.setVolume ch p2.volOut])

/-- `PartTick(ch, p)` up to the consume loop (R87): an ended Part returns false; otherwise the
8-bit duration counter counts down, wrapping (D14), and the tick continues or reaches its
boundary, where the consume loop begins. -/
def State.partTick (s : State) (c : Caller) (ch : Channel) (p : Part) : State :=
  if p.isEnded then s.goto (.returned c ch false)
  else
    let p' := { p with remainingTicks := p.remainingTicks - 1 }
    if p'.remainingTicks ≠ 0 then
      ((s.putPart ch (p'.continueTick ch).1).emitAll (p'.continueTick ch).2).goto
        (.returned c ch true)
    else (s.putPart ch p').goto (.consuming c ch)

end Sys2Proof.Machine
end

