-- ==== Sys2Proof/Machine/PlayContext.lean ====
section
/-! DEFINITION. Orchestration (47_play_context.md R113 to R117): CtxTick, CtxEnd, IsPlaying, the
loop-count policy and PRODUCE, each as the micro-steps between which the consume loops run. -/

namespace Sys2Proof.Machine

open Sys2Proof

/-- `IsPlaying()` (R115). -/
def State.playing (s : State) : Bool :=
  s.slots.ch0.isSome || s.slots.ch1.isSome || s.slots.ch2.isSome

/-! ### CtxEnd (R114) -/

/-- One channel of `CtxEnd`: silence and remove it if it is present. -/
def State.endSlot (s : State) (ch : Channel) : State :=
  match s.slots.get ch with
  | some _ => (s.emit (.setVolume ch 0)).dropPart ch
  | none => s

/-- `CtxEnd()`: the channels in order (R114, D18). -/
def State.ctxEnd (s : State) : State := ((s.endSlot .ch0).endSlot .ch1).endSlot .ch2

/-! ### The loop-count policy (R116) -/

/-- A slot's count of infinite passes, 0 where it is absent. -/
def slotLoops : Option Part → Nat
  | some p => p.infiniteLoopCount.toNat
  | none => 0

/-- The maximum of R116 over the present slots and 0. -/
def State.maxLoops (s : State) : Nat :=
  max (slotLoops s.slots.ch0) (max (slotLoops s.slots.ch1) (slotLoops s.slots.ch2))

/-- `ApplyLoopPolicy()` (R116). -/
def State.applyLoopPolicy (s : State) : State :=
  match s.maxLoopCount with
  | some limit => if limit ≤ s.maxLoops then s.ctxEnd else s
  | none => s

/-! ### CtxTick (R113) -/

/-- The channel the `for` loop of `CtxTick` goes to next. -/
def nextChannel : Channel → Option Channel
  | .ch0 => some .ch1
  | .ch1 => some .ch2
  | .ch2 => none

/-- `CtxTick` has run its loop and returns `IsPlaying()`: a host TICK reports it; PRODUCE stops
where nothing plays, and else refills the budget and goes on (R113, R117). -/
def State.finishTick (s : State) : Caller → State
  | .tick => s.complete (.ticked s.playing)
  | .produce n k =>
    if s.playing then { s with spt := s.spt.refill, activity := .producing n k }
    else s.complete (.produced k)

/-- `CtxTick`'s loop goes on after this channel. -/
def State.afterChannel (s : State) (c : Caller) (ch : Channel) : State :=
  match nextChannel ch with
  | some ch' => s.goto (.visiting c ch')
  | none => s.finishTick c

/-- `CtxTick` looks at a slot: an absent one is passed over, a present one is ticked (R113). -/
def State.visit (s : State) (c : Caller) (ch : Channel) : State :=
  match s.slots.get ch with
  | some p => s.partTick c ch p
  | none => s.afterChannel c ch

/-- A Part's tick has returned: a Part that no longer plays is removed (R113, 10_state.md R17). -/
def State.leave (s : State) (c : Caller) (ch : Channel) (alive : Bool) : State :=
  (if alive then s else s.dropPart ch).afterChannel c ch

/-! ### PRODUCE (R117) -/

/-- One sample: `Pull`, its value into the buffer, one unit of the budget (R117, 20_memory.md
R49). -/
def State.pull (s : State) : State :=
  let s' := s.emit .pull
  { s' with
    buffer := s'.buffer ++ [Config.pcmSample s'.draws]
    draws := s'.draws + 1
    spt := s'.spt.spend }

/-- One turn of PRODUCE's loop (R117): it stops with `k` samples where the buffer is full or nothing
plays; else it pulls one, and at a tick boundary applies the loop policy and begins `CtxTick`. -/
def State.produceTurn (s : State) (n k : Nat) : State :=
  if k < n ∧ s.playing = true then
    let s' := s.pull
    if s'.spt.remaining = 0 then
      s'.applyLoopPolicy.goto (.visiting (.produce n (k + 1)) .ch0)
    else s'.goto (.producing n (k + 1))
  else s.complete (.produced k)

end Sys2Proof.Machine
end

