-- ==== Sys2Proof/Machine/Session.lean ====
section
/-! DEFINITION. The header parse (47_play_context.md R112), LOAD (70_reset_and_hazards.md R132), and
the acceptance of host operations (R111, 60_exceptions.md R121). -/

namespace Sys2Proof.Machine

open Sys2Proof

/-! ### The header (R112, 30_encoding.md R57) -/

/-- How the scan for the title's terminator ends (R112). -/
inductive TitleScan where
  /-- The terminator stands here: the base `T`. -/
  | found (base : Word)
  /-- A read fell outside the blob. -/
  | out (addr : Word)
  /-- The scan goes round the whole address space for ever (R112, R137). -/
  | endless
deriving DecidableEq, Repr

/-- The title scan of R112 from `a`. With `fuel` the number of addresses it has probed every address
before it gives up, so giving up means that it never ends (log 9). -/
def titleScan (P : Params) : Nat → Word → TitleScan
  | 0, _ => .endless
  | fuel + 1, a =>
    match P.readByte a with
    | .error x => .out x
    | .ok b => if b = 0 then .found a else titleScan P fuel (a + 1)

/-- What the header says: the patch table's address and each Part's start address (R112). -/
structure Header where
  patchTableAddress : Word
  starts : PerChannel (Option Word)
deriving DecidableEq, Repr

/-- A part offset as a start address: the zero test is on the raw offset, the base is added after
it, modulo 2^16 (R112, R57). -/
def startAddress (base off : Word) : Option Word := if off = 0 then none else some (off + base)

/-- The header's fields once its base is known, read in the order of R112. -/
def headerFields (P : Params) (base : Word) : Read Header :=
  match P.readShort (base + 2) with
  | .error x => .error x
  | .ok patchOff =>
    match P.readShort (base + 4) with
    | .error x => .error x
    | .ok off0 =>
      match P.readShort (base + 6) with
      | .error x => .error x
      | .ok off1 =>
        match P.readShort (base + 8) with
        | .error x => .error x
        | .ok off2 =>
          .ok { patchTableAddress := patchOff + base
                starts := ⟨startAddress base off0, startAddress base off1,
                  startAddress base off2⟩ }

/-- How the header parse ends. -/
inductive HeaderEnd where
  | done (h : Header)
  | out (addr : Word)
  | endless
deriving DecidableEq, Repr

/-- `HeaderParse()` (R112). -/
def headerParse (P : Params) : HeaderEnd :=
  match titleScan P Config.addressCount 0 with
  | .out x => .out x
  | .endless => .endless
  | .found base =>
    match headerFields P base with
    | .error x => .out x
    | .ok h => .done h

/-! ### LOAD (R132) -/

/-- The three initialisation writes of a channel (R132, D19). -/
def channelInit (ch : Channel) : List Event :=
  [.setMode ch .tone, .setVolume ch 0, .setTone ch 0]

/-- LOAD's initialisation events, in order (R132, D18, D19): the ten R132 lists, whose count R132
gives as 13 (log 28). -/
def initEvents : List Event :=
  channelInit .ch0 ++ channelInit .ch1 ++ channelInit .ch2 ++ [.setNoise 0]

/-- A slot after LOAD: present with a fresh Part exactly where the header gives a start (R132,
R133). -/
def newSlot (start : Option Word) : Option Part := start.map Part.fresh

/-- LOAD once the header is parsed (R132). -/
def State.startSession (s : State) (sampleRate : Word32) (maxLoopCount : Option Nat) (h : Header) :
    State :=
  let s' := { s with patchTableAddress := h.patchTableAddress }.emitAll initEvents
  { s' with
    spt := SamplesPerTick.init sampleRate
    slots := ⟨newSlot h.starts.ch0, newSlot h.starts.ch1, newSlot h.starts.ch2⟩
    maxLoopCount := maxLoopCount }

/-- Is `SAMPLE_RATE` accepted? (00_scope.md R7). -/
def rateAccepted (sampleRate : Word32) : Bool :=
  decide (Config.sampleRateMin ≤ sampleRate.toNat ∧ sampleRate.toNat ≤ Config.sampleRateMax)

/-- `Load(sr, mlc)` (R132). The refusal is tested first and changes nothing (R121). A header read
outside the blob faults with no channel (R120), with the fields LOAD has not yet written as they
were (log 16); a title scan that never ends hangs the operation (R122). -/
def State.load (s : State) (sampleRate : Word32) (maxLoopCount : Option Nat) : State :=
  if rateAccepted sampleRate then
    let s' := { s with loaded := true, faulted := false, trace := [] }
    match headerParse s.params with
    | .out x => s'.raise x none
    | .endless => s'.goto .hung
    | .done h => (s'.startSession sampleRate maxLoopCount h).complete .loaded
  else s.complete (.refused .sampleRateOutOfRange)

/-! ### The host's operations (R111) -/

/-- An operation other than LOAD begins once nothing turns it away: PRODUCE with an empty buffer
(R117), TICK at channel 0 (R113); END (R114) and IS_PLAYING (R115) run whole. -/
def State.begin (s : State) : Request → State
  | .load sampleRate maxLoopCount => s.load sampleRate maxLoopCount
  | .produce n => { s with buffer := [], activity := .producing n 0 }
  | .tick => s.goto (.visiting .tick .ch0)
  | .finish => s.ctxEnd.complete .ended
  | .isPlaying => s.complete (.playing s.playing)

/-- The refusal test, made before anything else in the operation (R125 point 5); LOAD has its own
(R121, R132). -/
def State.serve (s : State) (r : Request) : State :=
  match r with
  | .load sampleRate maxLoopCount => s.load sampleRate maxLoopCount
  | r =>
    match s.gate with
    | some reason => s.complete (.refused reason)
    | none => s.begin r

/-- The idle block takes the oldest request; with none it stays as it is (60_exceptions.md R131;
log 6). -/
def State.accept (s : State) : State :=
  match s.inbox with
  | [] => s
  | r :: rest => ({ s with inbox := rest }).serve r

end Sys2Proof.Machine
end

