-- ==== Sys2Proof/Machine/Step.lean ====
section
/-! DEFINITION. One micro-step of the block (43_part_tick.md R89; log 5). -/

namespace Sys2Proof.Machine

open Sys2Proof

/-- One micro-step. An operation that hangs goes on for ever (60_exceptions.md R122; log 9); an idle
block with no request stays as it is. -/
def step (s : State) : Host.Outcome State Fault Refusal :=
  match s.activity with
  | .idle => .next s.accept
  | .producing n k => .next (s.produceTurn n k)
  | .visiting c ch => .next (s.visit c ch)
  | .consuming _ ch => consumeTurn s ch
  | .returned c ch alive => .next (s.leave c ch alive)
  | .hung => .next s

/-- The state with an instruction's bits (as spec/opcode_table.json numbers them, bits from `nbits`
up being 0) stored at the cursor of the Part whose consume loop is in progress, which is channel 0
of a host TICK in a loaded session where none is, so that the next step runs it (log 2). -/
def State.withFetchWord (s : State) (nbits w : Nat) : State :=
  let at_ := placedAt s.activity
  let p := placedPart (s.slots.get at_.2)
  { s.putPart at_.2 p with
    params := s.params.place p.cursor (tableBytes nbits w)
    activity := .consuming at_.1 at_.2
    loaded := true
    faulted := false }

end Sys2Proof.Machine
end

