-- ==== Sys2Proof/Safety.lean ====
section
/-! DEFINITION. The terms claims are stated in: what a consuming Part is, which bytes are inside the
blob, the invariant of the block (10_state.md R31 and the legal values of R25 to R29), and what
states the block can reach. -/

namespace Sys2Proof.Machine

open Sys2Proof

/-- Part `p` of channel `ch` is in its consume loop, between two opcodes or past an opcode byte
(43_part_tick.md R88). -/
def State.Consuming (s : State) (c : Caller) (ch : Channel) (p : Part) : Prop :=
  s.activity = .consuming c ch ∧ s.slots.get ch = some p

/-- These bytes stand inside the blob from address `a` up, addresses wrapping. -/
def State.BytesAt (s : State) : Word → List Byte → Prop
  | _, [] => True
  | a, b :: rest => a.toNat < s.params.blobLen ∧ s.params.songByte a = b ∧ s.BytesAt (a + 1) rest

/-- An opcode byte after which the consume loop goes on: neither REST's nor NOTE's nor a terminator's
(43_part_tick.md R88). -/
def KeepsConsuming (op : Byte) : Prop := 0xE0 ≤ op.toNat ∧ op.toNat ≤ 0xEC ∧ op ≠ 0xE8

/-- Is address `a` inside the blob? (00_scope.md R6). -/
def Params.InBlob (P : Params) (a : Word) : Prop := a.toNat < P.blobLen

/-- Are two parameter sets the same for every read the block may make? They agree on `BLOB_LEN`, on
`TONE_TABLE` and on every byte inside the blob. -/
def Params.AgreeInBlob (P Q : Params) : Prop :=
  P.blobLen = Q.blobLen ∧ P.toneTable = Q.toneTable ∧
    ∀ a : Word, P.InBlob a → P.songByte a = Q.songByte a

/-- The legal values of a Part's fields (10_state.md R31, points 1 to 3). -/
def Part.Legal (p : Part) : Prop :=
  p.channelVolume ≤ 15 ∧ p.octave ≤ 7 ∧ p.rs.length ≤ 8

/-- The legal values of the converter's fields (10_state.md R29, 46_samples_per_tick.md R105,
R106). -/
def SamplesPerTick.Legal (c : SamplesPerTick) : Prop :=
  1 ≤ c.quotient.toNat ∧ c.quotient.toNat ≤ 716544 ∧ c.remainder.toNat ≤ 5993 ∧
    -5994 ≤ c.error.toInt ∧ c.error.toInt ≤ -1 ∧ c.remaining.toNat ≤ c.quotient.toNat + 1

/-- Is the budget of the current tick not used up here? Everywhere but inside the tick a PRODUCE
runs at a boundary, and where an operation hangs (47_play_context.md R117, Budget invariant). -/
def Activity.Budgeted : Activity → Prop
  | .idle => True
  | .producing _ _ => True
  | .visiting c _ => c = .tick
  | .consuming c _ => c = .tick
  | .returned c _ _ => c = .tick
  | .hung => False

/-- Which Part is at work in this activity, if any. -/
def Activity.atWork : Activity → Option Channel
  | .consuming _ ch => some ch
  | .returned _ ch _ => some ch
  | _ => none

/-- The invariant of the block: it holds at power-on, every step keeps it, and in a state that has
it a step never stops. -/
structure State.Inv (s : State) : Prop where
  /-- Song memory is in its canonical form. -/
  song : s.params.song.wf = true
  /-- `1 <= BLOB_LEN <= 65536` (00_scope.md R6). -/
  blob : 1 ≤ s.params.blobLen ∧ s.params.blobLen ≤ 65536
  /-- Every present Part's fields are legal (R31, points 1 to 3). -/
  parts : ∀ ch p, s.slots.get ch = some p → p.Legal
  /-- An ended Part is one whose tick has just returned "not playing" (R31, point 4). -/
  ended : ∀ ch p, s.slots.get ch = some p → p.isEnded = true →
    ∃ c, s.activity = .returned c ch false
  /-- The Part at work is present. -/
  atWork : ∀ ch, s.activity.atWork = some ch → (s.slots.get ch).isSome = true
  /-- While something plays the converter is legal (R29). -/
  converter : s.playing = true → s.spt.Legal
  /-- While something plays, outside PRODUCE's own ticks, the budget is not used up (R117). -/
  budget : s.faulted = false → s.playing = true → s.activity.Budgeted → s.spt.remaining ≠ 0
  /-- Something plays, or is in progress, only in a session (R134). -/
  session : s.playing = true ∨ s.activity ≠ .idle → s.loaded = true
  /-- A faulted block is idle (60_exceptions.md R120). -/
  stopped : s.faulted = true → s.activity = .idle

/-- The next host operation is an accepted LOAD: the only step that starts a session (R132). -/
def State.AboutToLoad (s : State) : Prop :=
  s.activity = .idle ∧ ∃ sampleRate limit rest,
    s.inbox = .load sampleRate limit :: rest ∧ rateAccepted sampleRate = true

/-- The operation in progress never completes from here on, however many steps are made
(60_exceptions.md R122). -/
def State.NeverCompletes (s : State) : Prop :=
  ∀ k : Nat, ∃ t : State, Sys2Proof.core.run k s = .next t ∧ t.activity ≠ .idle

/-- The counts `c_1, c_2, …` of 46_samples_per_tick.md R107 are the budgets the converter gives:
`c_1` is what priming leaves, each later one what a refill leaves. This is the converter after the
`k`-th refill following LOAD. -/
def converterAfter (sampleRate : Word32) : Nat → SamplesPerTick
  | 0 => SamplesPerTick.init sampleRate
  | k + 1 => (converterAfter sampleRate k).refill

/-- `c_1 + … + c_N` of R107. -/
def sampleTotal (sampleRate : Word32) : Nat → Nat
  | 0 => 0
  | n + 1 => sampleTotal sampleRate n + (converterAfter sampleRate n).remaining.toNat

/-- The LFO after `k` calls of LfoUpdate (41_pitch_lfo.md R74). -/
def Lfo.after (l : Lfo) : Nat → Lfo
  | 0 => l
  | k + 1 => (l.after k).update.1

/-- The envelope after `k` calls of EnvUpdate (40_envelope.md R68). -/
def Envelope.after (e : Envelope) : Nat → Envelope
  | 0 => e
  | k + 1 => (e.after k).update

/-- The LFO after `k` fires (41_pitch_lfo.md R75). -/
def Lfo.afterFires (l : Lfo) : Nat → Lfo
  | 0 => l
  | k + 1 => (l.afterFires k).fire

end Sys2Proof.Machine
end

