-- ==== Sys2Proof/Certificates/Slice0/Obligations.lean ====
section
/-! DEFINITION. The statements for the provers. A meaning runs with the cursor just past the opcode
byte, which the fetch has passed (43_part_tick.md R88), so an effect the spec writes as "cursor +2"
is "+1" in a clause about exec. The clause about the step that follows it starts with the cursor at the
opcode byte and says the whole effect. -/

open Sys2Proof Sys2Proof.Machine

/-! ### Encoding -/

/-- Decoding the encoding of a well-formed instruction gives the instruction back, whatever bytes
follow; an untied NOTE must not be followed by the tie marker, which would be its suffix. -/
def Obligations.DecodeUndoesEncode : Prop :=
  ∀ (i : Instr) (rest : List Byte), i.wellFormed = true →
    (∀ p d, i = .note p d false → rest.head? ≠ some 0xE8) →
    decode (encode i ++ rest) = .ok (i, rest)

/-- Whatever decodes is well formed, and its encoding is the bytes that were read: no bit of an
instruction is dropped or invented. -/
def Obligations.EncodeUndoesDecode : Prop :=
  ∀ (bytes rest : List Byte) (i : Instr), decode bytes = .ok (i, rest) →
    i.wellFormed = true ∧ bytes = encode i ++ rest

/-- R54: the opcode byte selects the instruction, for all 256 values, and the instruction takes its
format's bytes. -/
def Obligations.OpcodeByteSelectsTheInstruction : Prop :=
  ∀ (op : Byte) (rest : List Byte), 5 ≤ rest.length →
    ∃ i tail, decode (op :: rest) = .ok (i, tail) ∧ i.length + tail.length = rest.length + 1 ∧
      i.mnemonic =
        if op.toNat ≤ 0x7F then "REST"
        else if op.toNat ≤ 0xDF then "NOTE"
        else if op = 0xE0 then "SET_PATCH"
        else if op = 0xE1 then "SET_VOLUME"
        else if op = 0xE2 then "REPEAT_START"
        else if op = 0xE3 then "REPEAT_BREAK"
        else if op = 0xE4 then "REPEAT_END"
        else if op = 0xE5 then "SET_NOISE"
        else if op = 0xE6 then "VOLUME_UP"
        else if op = 0xE7 then "VOLUME_DOWN"
        else if op = 0xE9 then "SET_DETUNE"
        else if op = 0xEA then "SET_LFO"
        else if op = 0xEB then "LFO_ENABLE"
        else if op = 0xEC then "SET_MIX"
        else "TERM"

/-- How each operand is assembled from its bytes, and NOTE's tie suffix (30_encoding.md sections 2
and 3). -/
def Obligations.OperandsAreAssembledFromTheirBytes : Prop :=
  (∀ (op : Byte) (rest : List Byte), op.toNat ≤ 0x7F →
    ∃ v, decode (op :: rest) = .ok (.rest v, rest) ∧ v.toNat = op.toNat ∧
      (restTicks v).toNat = v.toNat + 1) ∧
  (∀ (op d t : Byte) (rest : List Byte), 0x80 ≤ op.toNat → op.toNat ≤ 0xDF →
    ∃ p, p.toNat = op.toNat - 0x80 ∧ semitone p = p.toNat % 12 ∧ (octaveOf p).toNat = p.toNat / 12 ∧
      decode (op :: d :: t :: rest) =
        if t = 0xE8 then .ok (.note p d true, rest) else .ok (.note p d false, t :: rest)) ∧
  (∀ (b : Byte) (rest : List Byte),
    decode (0xE0 :: b :: rest) = .ok (.setPatch b, rest) ∧
    decode (0xE1 :: b :: rest) = .ok (.setVolume b, rest) ∧
    decode (0xE2 :: b :: rest) = .ok (.repeatStart b, rest) ∧
    decode (0xE5 :: b :: rest) = .ok (.setNoise b, rest) ∧
    decode (0xEB :: b :: rest) = .ok (.lfoEnable b, rest) ∧
    decode (0xEC :: b :: rest) = .ok (.setMix b, rest)) ∧
  (∀ (lo hi : Byte) (rest : List Byte),
    ∃ w, decode (0xE9 :: lo :: hi :: rest) = .ok (.setDetune w, rest) ∧
      w.toNat = lo.toNat + 256 * hi.toNat ∧
      w.toInt = if w.toNat < 32768 then (w.toNat : Int) else (w.toNat : Int) - 65536) ∧
  (∀ (delay speed depth lo hi : Byte) (rest : List Byte),
    ∃ w, decode (0xEA :: delay :: speed :: depth :: lo :: hi :: rest) =
        .ok (.setLfo delay speed depth w, rest) ∧
      w.toNat = lo.toNat + 256 * hi.toNat ∧
      w.toInt = if w.toNat < 32768 then (w.toNat : Int) else (w.toNat : Int) - 65536)

/-- Words the spec writes out, decoded: 44_notes_rests.md R93 and R94, 42_repeat_stack.md R80,
45_commands.md R96, R101, R102 and R104. -/
def Obligations.SpecWordsDecode : Prop :=
  decodeTableWord 8 0x01 = some (.rest 1) ∧
  decodeTableWord 24 0xE8209A = some (.note 26 0x20 true) ∧
  decodeTableWord 16 0x02E2 = some (.repeatStart 2) ∧
  decodeTableWord 16 0x0CE1 = some (.setVolume 12) ∧
  decodeTableWord 24 0xFFF0E9 = some (.setDetune 0xFFF0) ∧
  decodeTableWord 48 0x000A040102EA = some (.setLfo 2 1 4 10) ∧
  decodeTableWord 8 0xE8 = some (.term 0xE8) ∧
  decodeTableWord 8 0xFF = some (.term 0xFF)

/-! ### The step -/

/-- A step runs the decoded instruction: with a Part in its consume loop and its opcode byte inside
the blob, the six bytes from the cursor up are decoded, and the step is exec of what they decode to,
at the state whose cursor is past the opcode byte and which is otherwise the same. -/
def Obligations.StepRunsTheDecodedInstruction : Prop :=
  ∀ (s : State) (c : Caller) (ch : Channel) (p : Part) (i : Instr) (rest : List Byte),
    s.Consuming c ch p → s.params.InBlob p.cursor →
    decode
        [s.params.songByte p.cursor, s.params.songByte (p.cursor + 1),
          s.params.songByte (p.cursor + 2), s.params.songByte (p.cursor + 3),
          s.params.songByte (p.cursor + 4), s.params.songByte (p.cursor + 5)] = .ok (i, rest) →
    step s = exec i { s with slots := s.slots.set ch (some { p with cursor := p.cursor + 1 }) }

/-- What taking the model fault leaves (60_exceptions.md section 2, the spec's own D3 and D32): the
writes of the Part so far stand, `faulted` is set, the record with cause code 0 is the operation's
result, the operation is over. An opcode fetch outside the blob takes it with nothing else
changed. -/
def Obligations.ModelFaultEntry : Prop :=
  (∀ (s : State) (ch : Channel) (p : Part) (a : Word),
    s.raiseIn ch p a = { s with
      slots := s.slots.set ch (some p)
      faulted := true
      results := s.results ++ [.faulted ⟨.readOutOfRange, a, some ch⟩]
      activity := .idle }) ∧
  FaultCause.readOutOfRange.code = 0 ∧
  ∀ (s : State) (c : Caller) (ch : Channel) (p : Part),
    s.Consuming c ch p → ¬ s.params.InBlob p.cursor →
    step s = .next { s with
      faulted := true
      results := s.results ++ [.faulted ⟨.readOutOfRange, p.cursor, some ch⟩]
      activity := .idle }

/-- A placed instruction is the one the next step runs (the model's own `withFetchWord`, log 2). -/
def Obligations.PlacedInstructionRunsNext : Prop :=
  ∀ (s : State) (nbits w : Nat) (i : Instr), s.params.song.wf = true →
    decodeTableWord nbits w = some i →
    ∃ c ch p, (s.withFetchWord nbits w).Consuming c ch p ∧
      step (s.withFetchWord nbits w) =
        exec i ((s.withFetchWord nbits w).putPart ch { p with cursor := p.cursor + 1 })

/-! ### Song memory -/

/-- Reads (20_memory.md section 1): a byte read faults exactly outside the blob and else gives the
byte; a short is little-endian, its high byte at the wrapped next address, and faults with the first
of its bytes that is outside. The faults and the wrap rest on the spec's D3 and D4. -/
def Obligations.ReadsAreRangeCheckedAndLittleEndian : Prop :=
  ∀ (P : Params) (a : Word),
    (P.InBlob a → P.readByte a = .ok (P.songByte a)) ∧
    (¬ P.InBlob a → P.readByte a = .error a ∧ P.readShort a = .error a) ∧
    (P.InBlob a → ¬ P.InBlob (a + 1) → P.readShort a = .error (a + 1)) ∧
    (P.InBlob a → P.InBlob (a + 1) →
      ∃ v : Word, P.readShort a = .ok v ∧
        v.toNat = (P.songByte a).toNat + 256 * (P.songByte (a + 1)).toNat)

/-- R39: the block never writes song memory: no step changes it, nor any other parameter, whether
the step ends well or faults. -/
def Obligations.NoStepWritesSongMemory : Prop :=
  ∀ (s t : State), step s = .next t →
    t.params = s.params ∧ ∀ a : Word, t.params.songByte a = s.params.songByte a

/-- Bytes at or past BLOB_LEN never matter: change them, and the step answers the same state with
the changed parameters in it. -/
def Obligations.BytesOutsideTheBlobNeverMatter : Prop :=
  ∀ (s t : State) (Q : Params), s.params.AgreeInBlob Q → step s = .next t →
    step { s with params := Q } = .next { t with params := Q }

/-! ### Frames -/

/-- What no instruction changes, and which instructions may change each field of the Part that runs
them: parameters and every byte of song memory, the patch-table address, the loop limit, the
converter, `loaded`, the inbox, the buffer, the draws and every other channel's slot are as before;
a field of the Part, its cursor among them, changes only for the instructions named, so that REST,
VOLUME_UP, VOLUME_DOWN and TERM leave the cursor just past the opcode byte; events come only from NOTE, SET_NOISE,
SET_MIX and TERM; nothing is reported to the host unless the model fault is, and the operation in
progress stays where it is but for the instructions named. -/
def Obligations.ExecFrame : Prop :=
  ∀ (i : Instr) (s t : State) (c : Caller) (ch : Channel) (p : Part),
    s.Consuming c ch p → exec i s = .next t →
    t.params = s.params ∧ (∀ a : Word, t.params.songByte a = s.params.songByte a) ∧
    t.patchTableAddress = s.patchTableAddress ∧ t.maxLoopCount = s.maxLoopCount ∧
    t.spt = s.spt ∧ t.loaded = s.loaded ∧ t.inbox = s.inbox ∧ t.buffer = s.buffer ∧
    t.draws = s.draws ∧ (∀ ch', ch' ≠ ch → t.slots.get ch' = s.slots.get ch') ∧
    (t.faulted = s.faulted ∧ t.results = s.results ∧
        (t.activity = s.activity ∨
          i.mnemonic ∈ ["REST", "NOTE"] ∧ t.activity = .returned c ch true ∨
          i.mnemonic = "TERM" ∧ t.activity = .returned c ch false ∨
          i.mnemonic = "SET_PATCH" ∧ t.activity = .hung) ∨
      t.faulted = true ∧ t.activity = .idle ∧
        ∃ a, t.results = s.results ++ [.faulted ⟨.readOutOfRange, a, some ch⟩]) ∧
    (∃ es, t.trace = s.trace ++ es ∧
      (i.mnemonic ∉ ["NOTE", "SET_NOISE", "SET_MIX", "TERM"] → es = [] ∧ t.sink = s.sink)) ∧
    ∃ q, t.slots.get ch = some q ∧
      (i.mnemonic ∈ ["REST", "VOLUME_UP", "VOLUME_DOWN", "TERM"] → q.cursor = p.cursor) ∧
      (i.mnemonic ∉ ["REST", "NOTE"] → q.remainingTicks = p.remainingTicks) ∧
      (i.mnemonic ∉ ["NOTE"] →
        q.isTied = p.isTied ∧ q.octave = p.octave ∧ q.baseTonePeriod = p.baseTonePeriod ∧
          q.env.current = p.env.current) ∧
      (i.mnemonic ∉ ["TERM"] → q.isEnded = p.isEnded) ∧
      (i.mnemonic ∉ ["SET_VOLUME", "VOLUME_UP", "VOLUME_DOWN"] →
        q.channelVolume = p.channelVolume) ∧
      (i.mnemonic ∉ ["SET_DETUNE"] → q.detune = p.detune) ∧
      (i.mnemonic ∉ ["REPEAT_END"] → q.infiniteLoopCount = p.infiniteLoopCount) ∧
      (i.mnemonic ∉ ["REPEAT_START", "REPEAT_BREAK", "REPEAT_END"] → q.rs = p.rs) ∧
      (i.mnemonic ∉ ["REST", "NOTE"] → q.env.phase = p.env.phase) ∧
      (i.mnemonic ∉ ["SET_PATCH"] →
        q.env.attackLevel = p.env.attackLevel ∧ q.env.attackRate = p.env.attackRate ∧
          q.env.decayRate = p.env.decayRate ∧ q.env.sustainLevel = p.env.sustainLevel ∧
          q.env.sustainRate = p.env.sustainRate ∧ q.env.releaseRate = p.env.releaseRate) ∧
      (i.mnemonic ∉ ["SET_LFO"] →
        q.lfo.delay = p.lfo.delay ∧ q.lfo.speed = p.lfo.speed ∧ q.lfo.depth = p.lfo.depth ∧
          q.lfo.displacement = p.lfo.displacement) ∧
      (i.mnemonic ∉ ["SET_LFO", "LFO_ENABLE"] → q.lfo.enabled = p.lfo.enabled) ∧
      (i.mnemonic ∉ ["SET_LFO", "LFO_ENABLE", "NOTE"] → q.lfo = p.lfo)

/-! ### REST and NOTE -/

/-- REST completes with its duration loaded, the envelope released unless tied, no event, and the
consume loop ended with the Part playing on; nothing else changes. That it emits nothing and leaves
the tie flag is the spec's own D13. -/
def Obligations.RestResult : Prop :=
  ∀ (s : State) (c : Caller) (ch : Channel) (p : Part) (v : BitVec 7), s.Consuming c ch p →
    ∃ ticks : Byte, ticks.toNat = v.toNat + 1 ∧
      exec (.rest v) s = .next { s with
        slots := s.slots.set ch (some { p with
          remainingTicks := ticks
          env := { p.env with phase := if p.isTied then p.env.phase else .release } })
        activity := .returned c ch true }

/-- NOTE completes where its duration byte and the byte it peeks at are inside the blob: pitch,
duration, tie flag, cursor, and attack and LFO reset unless the Part was tied; SetTone, then
SetVolume; nothing else changes. -/
def Obligations.NoteResult : Prop :=
  ∀ (s : State) (c : Caller) (ch : Channel) (p : Part) (pitch : BitVec 7) (d : Byte) (tie : Bool),
    s.Consuming c ch p → s.params.InBlob p.cursor → s.params.InBlob (p.cursor + 1) →
    ∃ q : Part,
      exec (.note pitch d tie) s = .next { s with
        slots := s.slots.set ch (some q)
        trace := s.trace ++ [.setTone ch q.toneOut, .setVolume ch q.volOut]
        sink := { s.sink with
          tone := s.sink.tone.set ch q.toneOut
          volume := s.sink.volume.set ch q.volOut }
        activity := .returned c ch true } ∧
      q.baseTonePeriod = s.params.toneTable[pitch.toNat % 12]'(Nat.mod_lt _ (by decide)) ∧
      q.octave.toNat = pitch.toNat / 12 ∧ q.remainingTicks = d ∧ q.isTied = tie ∧
      q.cursor = p.cursor + (if tie then 2 else 1) ∧
      (p.isTied = true → q.env = p.env ∧ q.lfo = p.lfo) ∧
      (p.isTied = false →
        q.env = { p.env with
          current := p.env.attackLevel
          phase := if p.env.attackLevel = 255 then .decay else .attack } ∧
        q.lfo = { p.lfo with
          waitCount := p.lfo.delay
          depthCount := p.lfo.depth >>> 1
          currentDisplacement := p.lfo.displacement
          effect := 0 }) ∧
      q.channelVolume = p.channelVolume ∧ q.detune = p.detune ∧ q.isEnded = p.isEnded ∧
      q.infiniteLoopCount = p.infiniteLoopCount ∧ q.rs = p.rs

/-- NOTE's two faults (60_exceptions.md R120, R125): on the duration fetch only the pitch has been
written; on the peek the duration and the retrigger have too, and the tie flag has not. Neither
emits anything. -/
def Obligations.NoteFaultsWhereItReads : Prop :=
  ∀ (s : State) (c : Caller) (ch : Channel) (p : Part) (pitch : BitVec 7) (d : Byte) (tie : Bool),
    s.Consuming c ch p →
    (¬ s.params.InBlob p.cursor →
      exec (.note pitch d tie) s = .next (s.raiseIn ch
        { p with baseTonePeriod := s.params.tonePeriod pitch, octave := octaveOf pitch }
        p.cursor)) ∧
    (s.params.InBlob p.cursor → ¬ s.params.InBlob (p.cursor + 1) →
      exec (.note pitch d tie) s = .next (s.raiseIn ch
        { p with
          baseTonePeriod := s.params.tonePeriod pitch
          octave := octaveOf pitch
          cursor := p.cursor + 1
          remainingTicks := d
          env := if p.isTied then p.env else p.env.attack
          lfo := if p.isTied then p.lfo else p.lfo.restart }
        (p.cursor + 1)))

/-! ### SET_PATCH -/

/-- SET_PATCH loads the first record with its number: where the records before record `k` carry
neither the number nor the sentinel, record `k` carries the number, which is not the sentinel's, and
all bytes read are inside the blob, the six parameters are that record's bytes 1 to 6. -/
def Obligations.SetPatchLoadsTheFirstMatch : Prop :=
  ∀ (s : State) (c : Caller) (ch : Channel) (p : Part) (n : Byte) (k : Nat) (r : Word),
    s.Consuming c ch p → s.params.InBlob p.cursor → n ≠ 0xFF →
    (∀ j < k, s.params.InBlob (s.patchTableAddress + BitVec.ofNat 16 (7 * j)) ∧
      s.params.songByte (s.patchTableAddress + BitVec.ofNat 16 (7 * j)) ≠ 0xFF ∧
      s.params.songByte (s.patchTableAddress + BitVec.ofNat 16 (7 * j)) ≠ n) →
    r = s.patchTableAddress + BitVec.ofNat 16 (7 * k) →
    (∀ m ≤ 6, s.params.InBlob (r + BitVec.ofNat 16 m)) → s.params.songByte r = n →
    exec (.setPatch n) s = .next { s with
      slots := s.slots.set ch (some { p with
        cursor := p.cursor + 1
        env := { p.env with
          attackLevel := s.params.songByte (r + 1)
          attackRate := s.params.songByte (r + 2)
          decayRate := s.params.songByte (r + 3)
          sustainLevel := s.params.songByte (r + 4)
          sustainRate := s.params.songByte (r + 5)
          releaseRate := s.params.songByte (r + 6) } }) }

/-- SET_PATCH with no match before the sentinel changes nothing but the cursor; the number 0xFF
never matches, since the sentinel is tested first (the spec's own D17). -/
def Obligations.SetPatchMissLeavesTheEnvelope : Prop :=
  ∀ (s : State) (c : Caller) (ch : Channel) (p : Part) (n : Byte) (k : Nat),
    s.Consuming c ch p → s.params.InBlob p.cursor →
    (∀ j < k, s.params.InBlob (s.patchTableAddress + BitVec.ofNat 16 (7 * j)) ∧
      s.params.songByte (s.patchTableAddress + BitVec.ofNat 16 (7 * j)) ≠ 0xFF ∧
      s.params.songByte (s.patchTableAddress + BitVec.ofNat 16 (7 * j)) ≠ n) →
    s.params.InBlob (s.patchTableAddress + BitVec.ofNat 16 (7 * k)) →
    s.params.songByte (s.patchTableAddress + BitVec.ofNat 16 (7 * k)) = 0xFF →
    exec (.setPatch n) s = .next { s with
      slots := s.slots.set ch (some { p with cursor := p.cursor + 1 }) }

/-- Where SET_PATCH faults: on its operand; on a record's number byte; or on byte `m` of the matching
record, with the parameters of the bytes before it written. The fault names the first address
outside the blob. -/
def Obligations.SetPatchFaultsWhereItReads : Prop :=
  ∀ (s : State) (c : Caller) (ch : Channel) (p : Part) (n : Byte), s.Consuming c ch p →
    (¬ s.params.InBlob p.cursor →
      exec (.setPatch n) s = .next (s.raiseIn ch p p.cursor)) ∧
    ∀ (k : Nat) (r : Word), s.params.InBlob p.cursor →
      (∀ j < k, s.params.InBlob (s.patchTableAddress + BitVec.ofNat 16 (7 * j)) ∧
        s.params.songByte (s.patchTableAddress + BitVec.ofNat 16 (7 * j)) ≠ 0xFF ∧
        s.params.songByte (s.patchTableAddress + BitVec.ofNat 16 (7 * j)) ≠ n) →
      r = s.patchTableAddress + BitVec.ofNat 16 (7 * k) →
      (¬ s.params.InBlob r →
        exec (.setPatch n) s = .next (s.raiseIn ch { p with cursor := p.cursor + 1 } r)) ∧
      (∀ m, 1 ≤ m → m ≤ 6 → n ≠ 0xFF → s.params.InBlob r → s.params.songByte r = n →
        (∀ m' < m, s.params.InBlob (r + BitVec.ofNat 16 m')) →
        ¬ s.params.InBlob (r + BitVec.ofNat 16 m) →
        exec (.setPatch n) s = .next (s.raiseIn ch
          { p with
            cursor := p.cursor + 1
            env := { p.env with
              attackLevel := if 1 < m then s.params.songByte (r + 1) else p.env.attackLevel
              attackRate := if 2 < m then s.params.songByte (r + 2) else p.env.attackRate
              decayRate := if 3 < m then s.params.songByte (r + 3) else p.env.decayRate
              sustainLevel := if 4 < m then s.params.songByte (r + 4) else p.env.sustainLevel
              sustainRate := if 5 < m then s.params.songByte (r + 5) else p.env.sustainRate } }
          (r + BitVec.ofNat 16 m)))

/-- SET_PATCH's scan hangs exactly where no address is outside the blob and no byte of song memory is
the sentinel or the wanted number: the stride of 7 visits every address (40_envelope.md R60,
60_exceptions.md R122). So the model's bound on the scan cuts nothing off (log 9). -/
def Obligations.SetPatchHangsExactlyWhereTheScanNeverEnds : Prop :=
  ∀ (s : State) (c : Caller) (ch : Channel) (p : Part) (n : Byte),
    s.Consuming c ch p → s.params.InBlob p.cursor →
    ((∀ a : Word, s.params.InBlob a ∧ s.params.songByte a ≠ 0xFF ∧ s.params.songByte a ≠ n) →
      exec (.setPatch n) s = .next { s with
        slots := s.slots.set ch (some { p with cursor := p.cursor + 1 })
        activity := .hung }) ∧
    ((∃ a : Word, ¬ s.params.InBlob a ∨ s.params.songByte a = 0xFF ∨ s.params.songByte a = n) →
      ∃ t, exec (.setPatch n) s = .next t ∧ t.activity ≠ .hung)

/-! ### Volume, noise, routing, detune, LFO -/

/-- SET_VOLUME (45_commands.md section 1), as exec past its opcode byte, and as the step at its opcode
byte. That an operand outside the blob takes the model fault is the spec's own D3 (60_exceptions.md
section 2; log 7, log 23). -/
def Obligations.SetVolumeResult : Prop :=
  ∀ (s : State) (c : Caller) (ch : Channel) (p : Part) (b : Byte), s.Consuming c ch p →
    (s.BytesAt p.cursor [0xE1, b] →
      step s = .next { s with
        slots := s.slots.set ch (some { p with
          cursor := p.cursor + 2
          channelVolume := BitVec.ofNat 8 (min b.toNat 15) }) }) ∧
    (s.params.InBlob p.cursor →
      exec (.setVolume b) s = .next { s with
        slots := s.slots.set ch (some { p with
          cursor := p.cursor + 1
          channelVolume := BitVec.ofNat 8 (min b.toNat 15) }) }) ∧
    (¬ s.params.InBlob p.cursor → exec (.setVolume b) s = .next (s.raiseIn ch p p.cursor))

/-- R97 and R98: VOLUME_UP and VOLUME_DOWN, as exec past the opcode byte, and as the step at it. -/
def Obligations.VolumeUpAndDownResult : Prop :=
  ∀ (s : State) (c : Caller) (ch : Channel) (p : Part), s.Consuming c ch p →
    (s.BytesAt p.cursor [0xE6] →
      step s = .next { s with
        slots := s.slots.set ch (some { p with
          cursor := p.cursor + 1
          channelVolume := BitVec.ofNat 8 (min (p.channelVolume.toNat + 1) 15) }) }) ∧
    (s.BytesAt p.cursor [0xE7] →
      step s = .next { s with
        slots := s.slots.set ch (some { p with
          cursor := p.cursor + 1
          channelVolume := BitVec.ofNat 8 (p.channelVolume.toNat - 1) }) }) ∧
    exec .volumeUp s = .next { s with
      slots := s.slots.set ch (some { p with
        channelVolume := BitVec.ofNat 8 (min (p.channelVolume.toNat + 1) 15) }) } ∧
    exec .volumeDown s = .next { s with
      slots := s.slots.set ch (some { p with
        channelVolume := BitVec.ofNat 8 (p.channelVolume.toNat - 1) }) }

/-- SET_NOISE emits its byte at once, for the one noise register all channels share; SET_MIX emits the
mode its byte selects at once (45_commands.md section 2, 20_memory.md section 3). Each as exec past its
opcode byte, and as the step at its opcode byte. That an operand outside the blob takes the model fault
is the spec's own D3 (60_exceptions.md section 2; log 7, log 23). -/
def Obligations.SetNoiseAndSetMixResult : Prop :=
  ∀ (s : State) (c : Caller) (ch : Channel) (p : Part) (b : Byte), s.Consuming c ch p →
    (s.BytesAt p.cursor [0xE5, b] →
      step s = .next { s with
        slots := s.slots.set ch (some { p with cursor := p.cursor + 2 })
        trace := s.trace ++ [.setNoise b]
        sink := { s.sink with noise := b } }) ∧
    (s.BytesAt p.cursor [0xEC, b] →
      ∃ mode : OutputMode,
        mode = (if b = 1 then OutputMode.tone else if b = 2 then .noise
          else if b = 3 then .toneNoise else .none) ∧
        step s = .next { s with
          slots := s.slots.set ch (some { p with cursor := p.cursor + 2 })
          trace := s.trace ++ [.setMode ch mode]
          sink := { s.sink with mode := s.sink.mode.set ch mode } }) ∧
    (s.params.InBlob p.cursor →
      exec (.setNoise b) s = .next { s with
        slots := s.slots.set ch (some { p with cursor := p.cursor + 1 })
        trace := s.trace ++ [.setNoise b]
        sink := { s.sink with noise := b } }) ∧
    (s.params.InBlob p.cursor →
      ∃ mode : OutputMode,
        mode = (if b = 1 then OutputMode.tone else if b = 2 then .noise
          else if b = 3 then .toneNoise else .none) ∧
        exec (.setMix b) s = .next { s with
          slots := s.slots.set ch (some { p with cursor := p.cursor + 1 })
          trace := s.trace ++ [.setMode ch mode]
          sink := { s.sink with mode := s.sink.mode.set ch mode } }) ∧
    (¬ s.params.InBlob p.cursor →
      exec (.setNoise b) s = .next (s.raiseIn ch p p.cursor) ∧
      exec (.setMix b) s = .next (s.raiseIn ch p p.cursor))

/-- R101: SET_DETUNE, as exec past its opcode byte, and as the step at its opcode byte. A fault on
either operand byte leaves the cursor past the opcode byte. -/
def Obligations.SetDetuneResult : Prop :=
  ∀ (s : State) (c : Caller) (ch : Channel) (p : Part) (lo hi : Byte), s.Consuming c ch p →
    ∃ d : Word,
      d.toInt = ((lo.toNat + 256 * hi.toNat : Nat) : Int) -
        (if lo.toNat + 256 * hi.toNat < 32768 then 0 else 65536) ∧
      (s.BytesAt p.cursor [0xE9, lo, hi] →
        step s = .next { s with
          slots := s.slots.set ch (some { p with cursor := p.cursor + 3, detune := d }) }) ∧
      (s.params.InBlob p.cursor → s.params.InBlob (p.cursor + 1) →
        exec (.setDetune d) s = .next { s with
          slots := s.slots.set ch (some { p with cursor := p.cursor + 2, detune := d }) }) ∧
      (¬ s.params.InBlob p.cursor → exec (.setDetune d) s = .next (s.raiseIn ch p p.cursor)) ∧
      (s.params.InBlob p.cursor → ¬ s.params.InBlob (p.cursor + 1) →
        exec (.setDetune d) s = .next (s.raiseIn ch p (p.cursor + 1)))

/-- SET_LFO stores its four parameters, enables the LFO and resets its running state (45_commands.md
section 3, 41_pitch_lfo.md section 1), as exec past its opcode byte, and as the step at its opcode byte.
It faults on the first operand byte outside the blob, with the cursor past the one-byte operands
fetched before it: the spec's own D3 (60_exceptions.md section 2; log 7, log 23). -/
def Obligations.SetLfoResult : Prop :=
  ∀ (s : State) (c : Caller) (ch : Channel) (p : Part) (delay speed depth : Byte) (x : Word),
    s.Consuming c ch p →
    (s.BytesAt p.cursor [0xEA, delay, speed, depth, x.setWidth 8, (x >>> 8).setWidth 8] →
      step s = .next { s with
        slots := s.slots.set ch (some { p with
          cursor := p.cursor + 6
          lfo :=
            { enabled := true, delay := delay, speed := speed, depth := depth, displacement := x
              waitCount := delay, depthCount := depth >>> 1, currentDisplacement := x
              effect := 0 } }) }) ∧
    ((∀ m ≤ 4, s.params.InBlob (p.cursor + BitVec.ofNat 16 m)) →
      exec (.setLfo delay speed depth x) s = .next { s with
        slots := s.slots.set ch (some { p with
          cursor := p.cursor + 5
          lfo :=
            { enabled := true, delay := delay, speed := speed, depth := depth, displacement := x
              waitCount := delay, depthCount := depth >>> 1, currentDisplacement := x
              effect := 0 } }) }) ∧
    (∀ m ≤ 4, (∀ m' < m, s.params.InBlob (p.cursor + BitVec.ofNat 16 m')) →
      ¬ s.params.InBlob (p.cursor + BitVec.ofNat 16 m) →
      exec (.setLfo delay speed depth x) s = .next (s.raiseIn ch
        { p with cursor := p.cursor + BitVec.ofNat 16 (min m 3) }
        (p.cursor + BitVec.ofNat 16 m)))

/-- LFO_ENABLE sets or clears the enable and resets the running state either way (45_commands.md
section 3, 41_pitch_lfo.md section 1), as exec past its opcode byte, and as the step at its opcode byte.
That an operand outside the blob takes the model fault is the spec's own D3 (60_exceptions.md
section 2; log 7, log 23). -/
def Obligations.LfoEnableResult : Prop :=
  ∀ (s : State) (c : Caller) (ch : Channel) (p : Part) (b : Byte), s.Consuming c ch p →
    (s.BytesAt p.cursor [0xEB, b] →
      step s = .next { s with
        slots := s.slots.set ch (some { p with
          cursor := p.cursor + 2
          lfo := { p.lfo with
            enabled := decide (b ≠ 0)
            waitCount := p.lfo.delay
            depthCount := BitVec.ofNat 8 (p.lfo.depth.toNat / 2)
            currentDisplacement := p.lfo.displacement
            effect := 0 } }) }) ∧
    (s.params.InBlob p.cursor →
      exec (.lfoEnable b) s = .next { s with
        slots := s.slots.set ch (some { p with
          cursor := p.cursor + 1
          lfo := { p.lfo with
            enabled := decide (b ≠ 0)
            waitCount := p.lfo.delay
            depthCount := BitVec.ofNat 8 (p.lfo.depth.toNat / 2)
            currentDisplacement := p.lfo.displacement
            effect := 0 } }) }) ∧
    (¬ s.params.InBlob p.cursor → exec (.lfoEnable b) s = .next (s.raiseIn ch p p.cursor))

/-! ### Repeats and the terminator -/

/-- REPEAT_START pushes a frame that starts after its count byte; with eight frames the push is dropped
(42_repeat_stack.md sections 1 and 2). The 0 in the new frame's unknown end is the spec's own fill
value, which nothing reads. As exec past its opcode byte, and as the step at its opcode byte. That an
operand outside the blob takes the model fault is the spec's own D3 (60_exceptions.md section 2; log 7,
log 23). -/
def Obligations.RepeatStartResult : Prop :=
  ∀ (s : State) (c : Caller) (ch : Channel) (p : Part) (count : Byte), s.Consuming c ch p →
    (s.BytesAt p.cursor [0xE2, count] →
      step s = .next { s with
        slots := s.slots.set ch (some { p with
          cursor := p.cursor + 2
          rs := if p.rs.length < 8 then ⟨p.cursor + 2, false, 0, count⟩ :: p.rs else p.rs }) }) ∧
    (s.params.InBlob p.cursor → p.rs.length < 8 →
      exec (.repeatStart count) s = .next { s with
        slots := s.slots.set ch (some { p with
          cursor := p.cursor + 1
          rs := ⟨p.cursor + 1, false, 0, count⟩ :: p.rs }) }) ∧
    (s.params.InBlob p.cursor → 8 ≤ p.rs.length →
      exec (.repeatStart count) s = .next { s with
        slots := s.slots.set ch (some { p with cursor := p.cursor + 1 }) }) ∧
    (¬ s.params.InBlob p.cursor → exec (.repeatStart count) s = .next (s.raiseIn ch p p.cursor))

/-- REPEAT_BREAK jumps past the loop and pops it exactly where the top frame has count 1 and a known
end; else, the empty stack included (the spec's own D15), it changes nothing. -/
def Obligations.RepeatBreakResult : Prop :=
  ∀ (s : State) (c : Caller) (ch : Channel) (p : Part), s.Consuming c ch p →
    (∀ rest, decode (0xE3 :: rest) = .ok (.repeatBreak, rest)) ∧
    (∀ f rest, p.rs = f :: rest → f.count = 1 → f.endValid = true →
      exec .repeatBreak s = .next { s with
        slots := s.slots.set ch (some { p with cursor := f.endAddr, rs := rest }) }) ∧
    ((∀ f, p.rs.head? = some f → f.count ≠ 1 ∨ f.endValid = false) →
      exec .repeatBreak s = .next s)

/-- REPEAT_END: an infinite frame records the end, jumps back and counts the pass, saturating at
65535; a frame with passes left counts one off, records the end and jumps back; a frame on its last
pass is popped; an empty stack has no effect (the spec's own D15, D16). -/
def Obligations.RepeatEndResult : Prop :=
  ∀ (s : State) (c : Caller) (ch : Channel) (p : Part), s.Consuming c ch p →
    (∀ rest, decode (0xE4 :: rest) = .ok (.repeatEnd, rest)) ∧
    (p.rs = [] → exec .repeatEnd s = .next s) ∧
    (∀ f rest, p.rs = f :: rest →
      (f.count = 0 →
        exec .repeatEnd s = .next { s with
          slots := s.slots.set ch (some { p with
            cursor := f.start
            rs := ⟨f.start, true, p.cursor, 0⟩ :: rest
            infiniteLoopCount :=
              BitVec.ofNat 16 (min (p.infiniteLoopCount.toNat + 1) 65535) }) }) ∧
      (2 ≤ f.count.toNat →
        exec .repeatEnd s = .next { s with
          slots := s.slots.set ch (some { p with
            cursor := f.start
            rs := ⟨f.start, true, p.cursor, f.count - 1⟩ :: rest }) }) ∧
      (f.count = 1 →
        exec .repeatEnd s = .next { s with
          slots := s.slots.set ch (some { p with rs := rest }) }))

/-- TERM silences its channel, sets the end flag and ends the consume loop with "not playing"; any of
its 20 opcode bytes does the same (the spec's own D28 for 0xE8). -/
def Obligations.TermResult : Prop :=
  ∀ (s : State) (c : Caller) (ch : Channel) (p : Part) (op : Byte), s.Consuming c ch p →
    (op = 0xE8 ∨ 0xED ≤ op.toNat → ∀ rest, decode (op :: rest) = .ok (.term op, rest)) ∧
    exec (.term op) s = .next { s with
      slots := s.slots.set ch (some { p with isEnded := true })
      trace := s.trace ++ [.setVolume ch 0]
      sink := { s.sink with volume := s.sink.volume.set ch 0 }
      activity := .returned c ch false }

/-! ### Envelope -/

/-- R61, R62, R65, R66 and R67: EnvAttack and EnvRelease, and the Decay, Sustain and Release phases
of EnvUpdate (in Lean's naturals a difference stops at 0, which is sat_sub). -/
def Obligations.EnvelopeOperations : Prop :=
  ∀ e : Envelope,
    e.attack = { e with
      current := e.attackLevel
      phase := if e.attackLevel.toNat = 255 then .decay else .attack } ∧
    e.release = { e with phase := .release } ∧
    (e.phase = .decay → e.current.toNat - e.decayRate.toNat < e.sustainLevel.toNat →
      e.update = { e with current := e.sustainLevel, phase := .sustain }) ∧
    (e.phase = .decay → e.sustainLevel.toNat ≤ e.current.toNat - e.decayRate.toNat →
      e.update = { e with current := BitVec.ofNat 8 (e.current.toNat - e.decayRate.toNat) }) ∧
    (e.phase = .sustain →
      e.update = { e with current := BitVec.ofNat 8 (e.current.toNat - e.sustainRate.toNat) }) ∧
    (e.phase = .release →
      e.update = { e with current := BitVec.ofNat 8 (e.current.toNat - e.releaseRate.toNat) })

/-- The Attack phase of EnvUpdate: overflow is an exact sum above 255 (the spec's own D29). -/
def Obligations.EnvelopeAttackStep : Prop :=
  ∀ e : Envelope, e.phase = .attack →
    (255 < e.current.toNat + e.attackRate.toNat →
      e.update = { e with current := 255, phase := .decay }) ∧
    (e.current.toNat + e.attackRate.toNat ≤ 255 →
      e.update = { e with current := BitVec.ofNat 8 (e.current.toNat + e.attackRate.toNat) })

/-- The default envelope (40_envelope.md section 5, derived there): after an attack it stays at 255 in
Decay for any number of updates, and a release silences it at the first update after it. -/
def Obligations.DefaultEnvelopeHoldsUntilReleased : Prop :=
  ∀ (current : Byte) (phase : EnvPhase) (k : Nat),
    let e := ({ Envelope.fresh with current := current, phase := phase }).attack.after k
    e.current = 255 ∧ e.phase = .decay ∧ e.release.update.current = 0

/-! ### LFO -/

/-- One call of LfoUpdate (41_pitch_lfo.md section 2, with the spec's own D8, D9 and D10): a disabled
LFO does nothing; the wait counter counts down, stopping at 0; where it is then 0 the LFO fires. -/
def Obligations.LfoUpdateResult : Prop :=
  ∀ l : Lfo,
    (l.enabled = false → l.update = (l, false)) ∧
    (l.enabled = true → 2 ≤ l.waitCount.toNat →
      l.update = ({ l with waitCount := l.waitCount - 1 }, false)) ∧
    (l.enabled = true → l.waitCount.toNat ≤ 1 →
      ∃ m : Lfo, l.update = (m, true) ∧ m.waitCount = l.speed ∧
        m.effect = l.effect + l.currentDisplacement ∧
        m.enabled = l.enabled ∧ m.delay = l.delay ∧ m.speed = l.speed ∧ m.depth = l.depth ∧
        m.displacement = l.displacement ∧
        (2 ≤ l.depthCount.toNat →
          m.depthCount = l.depthCount - 1 ∧ m.currentDisplacement = l.currentDisplacement) ∧
        (l.depthCount.toNat ≤ 1 →
          m.depthCount = l.depth ∧ m.currentDisplacement = -l.currentDisplacement))

/-- When the LFO fires (41_pitch_lfo.md section 2, derived there): on call `max(delay, 1)` after a
reset, and every `max(speed, 1)` calls after it. -/
def Obligations.LfoFiringSchedule : Prop :=
  ∀ (l : Lfo) (k : Nat), l.enabled = true →
    ((l.restart.after k).update.2 = true ↔
      max l.delay.toNat 1 ≤ k + 1 ∧ (k + 1 - max l.delay.toNat 1) % max l.speed.toNat 1 = 0)

/-- The triangle (41_pitch_lfo.md section 2, derived there): after `f` fires from a reset with depth
`D >= 2`, `effect` is the displacement times the height of a triangle wave of period `2D` that
starts at 0, rises to `D >> 1` and falls to `(D >> 1) - D`, in 16-bit arithmetic. With depth 0 or 1
the sign flips after every fire, so `effect` alternates between the displacement and 0. -/
def Obligations.LfoTriangle : Prop :=
  (∀ (l : Lfo) (f : Nat), 2 ≤ l.depth.toNat →
    let D : Nat := l.depth.toNat
    let h : Nat := D / 2
    let u : Nat := (f + (D - h)) % (2 * D)
    let height : Int := if u ≤ D then (u : Int) - (D - h : Nat) else (h : Int) - ((u : Int) - D)
    (l.restart.afterFires f).effect = BitVec.ofInt 16 (height * l.displacement.toInt)) ∧
  (∀ (l : Lfo) (f : Nat), l.depth.toNat ≤ 1 →
    (l.restart.afterFires f).effect = if f % 2 = 0 then 0 else l.displacement)

/-! ### Outputs -/

/-- The tone period a Part writes: the exact sum (the spec's own D11), shifted right by the octave,
clamped to 1..4095. -/
def Obligations.ToneOutIsTheClampedShiftedSum : Prop :=
  ∀ p : Part,
    let sum : Int := (p.baseTonePeriod.toNat : Int) + p.detune.toInt + p.lfo.effect.toInt
    let shifted : Int := sum / 2 ^ p.octave.toNat
    (p.toneOut.toNat : Int) = min (max shifted 1) 4095

/-- R91: the volume a Part with a legal `channel_volume` writes; it is never 15. -/
def Obligations.VolOutIsTheScaledProduct : Prop :=
  ∀ p : Part, p.channelVolume ≤ 15 →
    p.volOut.toNat = p.env.current.toNat * p.channelVolume.toNat / 256 ∧ p.volOut.toNat ≤ 14

/-! ### Ticks -/

/-- A Part's tick (43_part_tick.md section 2, with the spec's own D12 and D14). Continuing: the counter
counts down, wrapping from 0; the LFO and the envelope each take one step; SetTone goes out exactly
where the LFO fired, then SetVolume. At the boundary the consume loop begins, and nothing else is
done. An ended Part's tick returns "not playing" and does nothing else. -/
def Obligations.PartTickResult : Prop :=
  ∀ (s : State) (c : Caller) (ch : Channel) (p q : Part),
    s.activity = .visiting c ch → s.slots.get ch = some p →
    q = { p with
      remainingTicks := p.remainingTicks - 1, lfo := p.lfo.update.1, env := p.env.update } →
    (p.isEnded = false → p.remainingTicks ≠ 1 → p.lfo.update.2 = true →
      step s = .next { s with
        slots := s.slots.set ch (some q)
        trace := s.trace ++ [.setTone ch q.toneOut, .setVolume ch q.volOut]
        sink := { s.sink with
          tone := s.sink.tone.set ch q.toneOut, volume := s.sink.volume.set ch q.volOut }
        activity := .returned c ch true }) ∧
    (p.isEnded = false → p.remainingTicks ≠ 1 → p.lfo.update.2 = false →
      step s = .next { s with
        slots := s.slots.set ch (some q)
        trace := s.trace ++ [.setVolume ch q.volOut]
        sink := { s.sink with volume := s.sink.volume.set ch q.volOut }
        activity := .returned c ch true }) ∧
    (p.isEnded = false → p.remainingTicks = 1 →
      step s = .next { s with
        slots := s.slots.set ch (some { p with remainingTicks := 0 })
        activity := .consuming c ch }) ∧
    (p.isEnded = true → step s = .next { s with activity := .returned c ch false })

/-- How long a note or rest lasts (43_part_tick.md section 5, derived there). `before k` is a state in
which the channel's tick number `k`, counted from 0, is about to be made, `after k` the state that tick
leaves; between two ticks anything else may have happened that leaves the channel's Part as it was.
With `n` ticks loaded, 0 meaning 256 (the spec's own D14), each of the first `n - 1` ticks is a
continuing one, which counts one down, and the `n`-th is the boundary, where the consume loop begins;
none of them moves the cursor. -/
def Obligations.DurationIsCountedExactly : Prop :=
  ∀ (before after : Nat → State) (c : Nat → Caller) (ch : Channel) (p : Part) (n : Nat),
    n = (if p.remainingTicks = 0 then 256 else p.remainingTicks.toNat) →
    p.isEnded = false → (before 0).slots.get ch = some p →
    (∀ k < n, (before k).activity = .visiting (c k) ch ∧ step (before k) = .next (after k)) →
    (∀ k, k + 1 < n → (before (k + 1)).slots.get ch = (after k).slots.get ch) →
    ∀ k < n, ∃ q, (after k).slots.get ch = some q ∧
      q.remainingTicks = BitVec.ofNat 8 (n - (k + 1)) ∧ q.cursor = p.cursor ∧
      (after k).activity =
        if k + 1 < n then .returned (c k) ch true else .consuming (c k) ch

/-! ### Orchestration -/

/-- CtxTick's loop (47_play_context.md section 3, order by the spec's own D18): absent slots are
passed over, a Part that returned "not playing" is removed, the channels come in order, and after
channel 2 a host TICK reports whether anything plays. -/
def Obligations.CtxTickLoop : Prop :=
  ∀ (s : State) (ch : Channel),
    (∀ c, s.activity = .visiting c ch → s.slots.get ch = none → ch ≠ .ch2 →
      step s = .next { s with activity := .visiting c (if ch = .ch0 then .ch1 else .ch2) }) ∧
    (∀ c alive, s.activity = .returned c ch alive → ch ≠ .ch2 →
      step s = .next { s with
        slots := if alive then s.slots else s.slots.set ch none
        activity := .visiting c (if ch = .ch0 then .ch1 else .ch2) }) ∧
    (∀ slots : PerChannel (Option Part),
      (s.activity = .visiting .tick .ch2 ∧ s.slots.ch2 = none ∧ slots = s.slots) ∨
        (s.activity = .returned .tick .ch2 true ∧ slots = s.slots) ∨
        (s.activity = .returned .tick .ch2 false ∧ slots = s.slots.set .ch2 none) →
      step s = .next { s with
        slots := slots
        results := s.results ++
          [.ticked (slots.ch0.isSome || slots.ch1.isSome || slots.ch2.isSome)]
        activity := .idle })

/-- END (47_play_context.md section 3, events by the spec's own D36): each present channel is silenced
and removed, in order. -/
def Obligations.EndSilencesAndRemovesEveryPart : Prop :=
  ∀ (s : State) (rest : List Request),
    s.activity = .idle → s.inbox = .finish :: rest → s.loaded = true → s.faulted = false →
    ∃ t, step s = .next t ∧ t.slots = ⟨none, none, none⟩ ∧ t.inbox = rest ∧
      t.results = s.results ++ [.ended] ∧ t.activity = .idle ∧
      t.trace = s.trace ++
        ([Channel.ch0, .ch1, .ch2].filter fun ch => (s.slots.get ch).isSome).map
          (fun ch => Event.setVolume ch 0) ∧
      (∀ ch, t.sink.volume.get ch =
        if (s.slots.get ch).isSome then 0 else s.sink.volume.get ch) ∧
      t.sink.tone = s.sink.tone ∧ t.sink.mode = s.sink.mode ∧ t.sink.noise = s.sink.noise ∧
      t.params = s.params ∧ t.patchTableAddress = s.patchTableAddress ∧
      t.maxLoopCount = s.maxLoopCount ∧ t.spt = s.spt ∧ t.loaded = s.loaded ∧
      t.faulted = s.faulted ∧ t.buffer = s.buffer ∧ t.draws = s.draws

/-- R115: IS_PLAYING reports whether some slot is present and has no side effect. -/
def Obligations.IsPlayingReportsPresence : Prop :=
  ∀ (s : State) (rest : List Request),
    s.activity = .idle → s.inbox = .isPlaying :: rest → s.loaded = true → s.faulted = false →
    ∃ b : Bool, (b = true ↔ ∃ ch p, s.slots.get ch = some p) ∧
      step s = .next { s with inbox := rest, results := s.results ++ [.playing b] }

/-- The loop-count policy (47_play_context.md section 4, on naturals by the spec's own D24): it ends
playback exactly where a limit is set and it is 0 or some present Part has counted that many
infinite passes. -/
def Obligations.LoopPolicyEndsPlayback : Prop :=
  ∀ s : State,
    (s.maxLoopCount = none → s.applyLoopPolicy = s) ∧
    ∀ limit, s.maxLoopCount = some limit →
      ((limit = 0 ∨ ∃ ch p, s.slots.get ch = some p ∧ limit ≤ p.infiniteLoopCount.toNat) →
        s.applyLoopPolicy = s.ctxEnd) ∧
      (limit ≠ 0 → (∀ ch p, s.slots.get ch = some p → p.infiniteLoopCount.toNat < limit) →
        s.applyLoopPolicy = s)

/-- PRODUCE's loop (47_play_context.md section 5, the spec's own D22): with the buffer full or nothing
playing it reports the count; else it emits Pull, appends the drawn value and spends one unit; with
budget left it goes on, and at the boundary the loop policy and then CtxTick come next. After that
tick it stops short where nothing plays, and else refills the budget and goes on. -/
def Obligations.ProduceLoopResult : Prop :=
  (∀ (s : State) (n k : Nat), s.activity = .producing n k →
    (n ≤ k ∨ s.slots = ⟨none, none, none⟩ →
      step s = .next { s with results := s.results ++ [.produced k], activity := .idle }) ∧
    (k < n → s.slots ≠ ⟨none, none, none⟩ →
      ∃ u : State,
        u = { s with
          trace := s.trace ++ [.pull]
          buffer := s.buffer ++ [Config.pcmSample s.draws]
          draws := s.draws + 1
          spt := { s.spt with remaining := s.spt.remaining - 1 } } ∧
        (s.spt.remaining ≠ 1 → step s = .next { u with activity := .producing n (k + 1) }) ∧
        (s.spt.remaining = 1 →
          step s = .next { u.applyLoopPolicy with
            activity := .visiting (.produce n (k + 1)) .ch0 }))) ∧
  (∀ (s : State) (n k : Nat) (slots : PerChannel (Option Part)),
    (s.activity = .visiting (.produce n k) .ch2 ∧ s.slots.ch2 = none ∧ slots = s.slots) ∨
      (s.activity = .returned (.produce n k) .ch2 true ∧ slots = s.slots) ∨
      (s.activity = .returned (.produce n k) .ch2 false ∧ slots = s.slots.set .ch2 none) →
    (slots = ⟨none, none, none⟩ →
      step s = .next { s with
        slots := slots, results := s.results ++ [.produced k], activity := .idle }) ∧
    (slots ≠ ⟨none, none, none⟩ →
      step s = .next { s with
        slots := slots
        spt := { s.spt.next.1 with remaining := s.spt.next.2 }
        activity := .producing n k }))

/-! ### The converter -/

/-- R106: SptNext on a legal converter. -/
def Obligations.SptNextResult : Prop :=
  ∀ c : SamplesPerTick, c.Legal →
    let e : Int := c.error.toInt + (c.remainder.toNat : Int)
    (0 ≤ e → c.next.2.toNat = c.quotient.toNat + 1 ∧ c.next.1.error.toInt = e - 5994) ∧
    (e < 0 → c.next.2.toNat = c.quotient.toNat ∧ c.next.1.error.toInt = e) ∧
    c.next.1.quotient = c.quotient ∧ c.next.1.remainder = c.remainder ∧
    c.next.1.remaining = c.remaining

/-- The converter never drifts (46_samples_per_tick.md section 2, derived there): the first `N` ticks
have exactly `floor(N * S / 5994)` samples, with `S` 100 times the sample rate, and the error after
call `N` is `-5994 + (N * remainder) mod 5994`. -/
def Obligations.SampleTotalsNeverDrift : Prop :=
  ∀ (sampleRate : Word32) (N : Nat), rateAccepted sampleRate = true →
    sampleTotal sampleRate N = N * (sampleRate.toNat * 100) / 5994 ∧
    (converterAfter sampleRate N).error.toInt =
      -5994 + (((N + 1) * (sampleRate.toNat * 100 % 5994) % 5994 : Nat) : Int)

/-! ### LOAD, refusals, power-on -/

/-- LOAD with an accepted rate and a title that ends inside the blob, at its first zero byte `T`
(47_play_context.md section 2, the spec's own D30).
With the bytes `T + 2` to `T + 9` inside the blob it answers the whole state given, every field of a
used channel's new Part among it, the values being those of 70_reset_and_hazards.md section 1 and
10_state.md sections 3 to 6 (the spec's own D5 to D7, D19 to D21, D34). The trace is
the ten events R132 lists, where R132 and R133 count 13 (log 28). That `buffer` and `draws` stay and
that LOAD is acknowledged is the model's choice (log 12, log 13, log 24).
With one of those bytes outside the blob it faults at the first such byte, with no channel and before
any event (60_exceptions.md section 2, the spec's own D3); `loaded`, `faulted` and the trace are
written and every other field is as the session before left it (log 16).
Addresses wrap, as R112's pseudocode has it. R112's prose says that `T + 9 >= BLOB_LEN` faults, so
where bytes `T + 2` to `T + 9` wrap to low addresses inside the blob (BLOB_LEN 65536 and `T` above
65526, or BLOB_LEN 65535 and `T` 65534) that LOAD completes is the model's reading, and unsafe
(log 27). -/
def Obligations.LoadResult : Prop :=
  ∀ (s : State) (sampleRate : Word32) (limit : Option Nat) (rest : List Request) (T : Word),
    s.activity = .idle → s.inbox = .load sampleRate limit :: rest →
    60 ≤ sampleRate.toNat → sampleRate.toNat ≤ 42949672 →
    (∀ a : Word, a.toNat < T.toNat → s.params.InBlob a ∧ s.params.songByte a ≠ 0) →
    s.params.InBlob T → s.params.songByte T = 0 →
    let field : Word → Word := fun a => le16 (s.params.songByte a) (s.params.songByte (a + 1))
    let slot : Word → Option Part := fun off =>
      if off = 0 then none else some
        { cursor := off + T
          remainingTicks := 1
          isTied := false
          isEnded := false
          octave := 0
          channelVolume := 15
          baseTonePeriod := 0
          detune := 0
          infiniteLoopCount := 0
          env :=
            { current := 0, phase := .release, attackLevel := 255, attackRate := 255
              decayRate := 0, sustainLevel := 0, sustainRate := 0, releaseRate := 255 }
          lfo :=
            { enabled := false, delay := 0, speed := 0, depth := 0, displacement := 0
              waitCount := 0, depthCount := 0, currentDisplacement := 0, effect := 0 }
          rs := [] }
    let q : Nat := sampleRate.toNat * 100 / 5994
    let r : Nat := sampleRate.toNat * 100 % 5994
    ((∀ m, 2 ≤ m → m ≤ 9 → s.params.InBlob (T + BitVec.ofNat 16 m)) →
      step s = .next
        { params := s.params
          slots := ⟨slot (field (T + 4)), slot (field (T + 6)), slot (field (T + 8))⟩
          patchTableAddress := field (T + 2) + T
          maxLoopCount := limit
          spt := ⟨BitVec.ofNat 32 q, BitVec.ofNat 32 r, BitVec.ofInt 32 (-5994 + (r : Int)),
            BitVec.ofNat 32 q⟩
          faulted := false
          loaded := true
          trace :=
            [.setMode .ch0 .tone, .setVolume .ch0 0, .setTone .ch0 0,
              .setMode .ch1 .tone, .setVolume .ch1 0, .setTone .ch1 0,
              .setMode .ch2 .tone, .setVolume .ch2 0, .setTone .ch2 0, .setNoise 0]
          sink := ⟨⟨0, 0, 0⟩, ⟨0, 0, 0⟩, ⟨.tone, .tone, .tone⟩, 0⟩
          activity := .idle
          inbox := rest
          results := s.results ++ [.loaded]
          buffer := s.buffer
          draws := s.draws }) ∧
    ∀ m, 2 ≤ m → m ≤ 9 →
      (∀ j, 2 ≤ j → j < m → s.params.InBlob (T + BitVec.ofNat 16 j)) →
      ¬ s.params.InBlob (T + BitVec.ofNat 16 m) →
      step s = .next { s with
        inbox := rest, loaded := true, faulted := true, trace := []
        results := s.results ++ [.faulted ⟨.readOutOfRange, T + BitVec.ofNat 16 m, none⟩] }

/-- TICK and PRODUCE begin, in a loaded session with no fault, at channel 0 of CtxTick and at the head
of PRODUCE's loop with an empty buffer, and nothing else is done (47_play_context.md sections 1, 3
and 5; the micro-steps and the buffer are the model's choice, log 5, log 6, log 13). -/
def Obligations.TickAndProduceBegin : Prop :=
  ∀ (s : State) (rest : List Request), s.activity = .idle → s.loaded = true → s.faulted = false →
    (s.inbox = .tick :: rest →
      step s = .next { s with inbox := rest, activity := .visiting .tick .ch0 }) ∧
    (∀ n, s.inbox = .produce n :: rest →
      step s = .next { s with inbox := rest, buffer := [], activity := .producing n 0 })

/-- Refused requests change nothing else (60_exceptions.md section 2, the spec's own D21, D32 and D34):
a LOAD whose sample rate is out of range, whatever the state; any other operation before the first
LOAD; and any other operation after a model fault. -/
def Obligations.RefusedRequestsChangeNothing : Prop :=
  ∀ (s : State) (r : Request) (rest : List Request), s.activity = .idle → s.inbox = r :: rest →
    (∀ sampleRate limit, r = .load sampleRate limit →
      sampleRate.toNat < 60 ∨ 42949672 < sampleRate.toNat →
      step s = .next { s with
        inbox := rest, results := s.results ++ [.refused .sampleRateOutOfRange] }) ∧
    ((∀ sampleRate limit, r ≠ .load sampleRate limit) → s.loaded = false →
      step s = .next { s with inbox := rest, results := s.results ++ [.refused .notLoaded] }) ∧
    ((∀ sampleRate limit, r ≠ .load sampleRate limit) → s.loaded = true → s.faulted = true →
      step s = .next { s with inbox := rest, results := s.results ++ [.refused .faulted] })

/-- A title with no terminator inside a blob shorter than the address space faults at BLOB_LEN with no
channel, before any event; inside a blob of 65,536 bytes the scan never ends (47_play_context.md
section 2, 60_exceptions.md section 2). The fields LOAD has not yet written are as the session before
left them (log 16). -/
def Obligations.LoadOfAnEndlessTitle : Prop :=
  ∀ (s : State) (sampleRate : Word32) (limit : Option Nat) (rest : List Request),
    s.activity = .idle → s.inbox = .load sampleRate limit :: rest →
    rateAccepted sampleRate = true →
    (∀ a : Word, s.params.InBlob a → s.params.songByte a ≠ 0) →
    (s.params.blobLen < 65536 →
      step s = .next { s with
        inbox := rest, loaded := true, faulted := true, trace := []
        results := s.results ++
          [.faulted ⟨.readOutOfRange, BitVec.ofNat 16 s.params.blobLen, none⟩] }) ∧
    (65536 ≤ s.params.blobLen →
      step s = .next { s with
        inbox := rest, loaded := true, faulted := false, trace := [], activity := .hung })

/-- Power-on: whatever the parameters, the block is not loaded (70_reset_and_hazards.md section 1, the
spec's own D34). That it is idle with no request waiting is the model's choice (log 1, log 5, log 6,
DESIGN CHOICE); that with no request a step changes nothing is how the model shows the idle block's
retained state (60_exceptions.md section 3, the spec's own D26; log 6). -/
def Obligations.PowerOnIsUnloadedAndIdle : Prop :=
  (∀ P : Params, (State.powerOn P).loaded = false ∧ (State.powerOn P).activity = .idle ∧
    (State.powerOn P).inbox = [] ∧ step (State.powerOn P) = .next (State.powerOn P)) ∧
  State.reset.loaded = false

/-! ### Rules of the whole machine -/

/-- Every step keeps the invariant, from every state that has it. -/
def Obligations.StepKeepsTheInvariant : Prop :=
  ∀ s t : State, s.Inv → step s = .next t → t.Inv

/-- The power-on state has the invariant for every legal choice of parameters; `State.reset` is one
(its parameters are the model's choice, log 3). 70_reset_and_hazards.md section 1 gives only
`loaded = 0` there and leaves every other field unspecified: that the slots are absent, `faulted` is
clear and the block idle, on which the invariant rests, is the model's choice (log 1, DESIGN CHOICE,
unsafe; log 5). -/
def Obligations.PowerOnHasTheInvariant : Prop :=
  (∀ P : Params, P.song.wf = true → 1 ≤ P.blobLen → P.blobLen ≤ 65536 → (State.powerOn P).Inv) ∧
  State.reset.Inv

/-- In a state that has the invariant a step never stops: neither a fault nor a refusal of the model
is reached, since the spec gives every situation a meaning. -/
def Obligations.InvariantStatesNeverStop : Prop :=
  ∀ s : State, s.Inv → ∃ t, step s = .next t

/-- Nothing but LOAD makes an absent slot present again (10_state.md section 2). -/
def Obligations.OnlyLoadMakesASlotPresent : Prop :=
  ∀ (s t : State) (ch : Channel), step s = .next t →
    s.slots.get ch = none → (t.slots.get ch).isSome = true → s.AboutToLoad

/-- `infinite_loop_count` never falls within a session, and rises by one at a time (10_state.md
section 3). -/
def Obligations.LoopCountNeverFalls : Prop :=
  ∀ (s t : State) (ch : Channel) (p q : Part), step s = .next t → ¬ s.AboutToLoad →
    s.slots.get ch = some p → t.slots.get ch = some q →
    p.infiniteLoopCount.toNat ≤ q.infiniteLoopCount.toNat ∧
      q.infiniteLoopCount.toNat ≤ p.infiniteLoopCount.toNat + 1

/-- A cursor moves only in its own Part's consume loop, or by a LOAD (10_state.md section 3,
43_part_tick.md section 5). -/
def Obligations.CursorMovesOnlyInTheConsumeLoop : Prop :=
  ∀ (s t : State) (ch : Channel) (p q : Part), step s = .next t → ¬ s.AboutToLoad →
    s.slots.get ch = some p → t.slots.get ch = some q →
    (∀ c, s.activity ≠ .consuming c ch) → q.cursor = p.cursor

/-- The event trace only grows, except that a LOAD starts it again (10_state.md section 8). -/
def Obligations.TraceOnlyGrows : Prop :=
  ∀ s t : State, step s = .next t → ¬ s.AboutToLoad → ∃ es, t.trace = s.trace ++ es

/-- Every tone period a Part emits is in 1..4095, and every volume at most 14: of the events a step
adds to the trace from a state that has the invariant, only a LOAD's writes tone 0 (20_memory.md
section 3, 43_part_tick.md section 4). -/
def Obligations.EmittedValuesAreInRange : Prop :=
  ∀ (s t : State) (es : List Event), s.Inv → step s = .next t → ¬ s.AboutToLoad →
    t.trace = s.trace ++ es →
    (∀ ch v, Event.setTone ch v ∈ es → 1 ≤ v.toNat) ∧
    (∀ ch v, Event.setVolume ch v ∈ es → v.toNat ≤ 14)

/-- R122's three conditions (60_exceptions.md section 2, the spec's own D27): the operation never
completes, however many steps are made.
A scan that never ends, which is the model's activity `hung` (log 9).
A consume loop of a Part that never reads a REST, NOTE or terminator opcode and never faults
(43_part_tick.md section 3): the hypothesis is on every state the loop goes through.
The spec's own example of one, `E2 00 E4` (70_reset_and_hazards.md section 3), wherever it stands
inside the blob and whatever the Part, its repeat stack not being full. -/
def Obligations.HungOperationsNeverComplete : Prop :=
  (∀ s : State, s.activity = .hung → s.NeverCompletes) ∧
  (∀ (s : State) (c : Caller) (ch : Channel) (p : Part), s.Consuming c ch p →
    (∀ (k : Nat) (t : State), Sys2Proof.core.run k s = .next t →
      t.faulted = false ∧
        ∀ q, t.Consuming c ch q → KeepsConsuming (t.params.songByte q.cursor)) →
    s.NeverCompletes) ∧
  ∀ (s : State) (c : Caller) (ch : Channel) (p : Part), s.Consuming c ch p →
    s.BytesAt p.cursor [0xE2, 0x00, 0xE4] → p.rs.length < 8 → s.NeverCompletes
end

