-- ==== Sys2Proof/Laws/Decode.lean ====
section
/-! SUPPORT. The laws of the decoder's pieces: the opcode map one range at a time (30_encoding.md
R54), and little-endian assembly against its two halves (20_memory.md R36). -/

namespace Sys2Proof

theorem loByte_le16 (lo hi : Byte) : loByte (le16 lo hi) = lo := by
  unfold loByte le16
  ext i hi'
  simp

theorem hiByte_le16 (lo hi : Byte) : hiByte (le16 lo hi) = hi := by
  unfold hiByte le16
  ext i hi'
  have h1 : 8 + i < 16 := by omega
  have h2 : i < 16 := by omega
  simp [h1, h2, BitVec.getLsbD_eq_getElem hi']

theorem le16_loByte_hiByte (w : Word) : le16 (loByte w) (hiByte w) = w := by
  unfold hiByte le16 loByte
  ext i hi'
  simp only [BitVec.getElem_or, BitVec.getElem_setWidth, BitVec.getElem_shiftLeft,
    BitVec.getLsbD_setWidth, BitVec.getLsbD_ushiftRight]
  by_cases h : i < 8
  · simp [h, BitVec.getLsbD_eq_getElem hi']
  · have h1 : 8 + (i - 8) = i := by omega
    have h2 : i - 8 < 8 := by omega
    simp [h, h1, h2, BitVec.getLsbD_eq_getElem hi']

theorem le16_toNat (lo hi : Byte) : (le16 lo hi).toNat = lo.toNat + 256 * hi.toNat := by
  have hl := lo.isLt
  have hh := hi.isLt
  unfold le16
  simp only [BitVec.toNat_or, BitVec.toNat_setWidth, BitVec.toNat_shiftLeft]
  rw [Nat.mod_eq_of_lt (by omega : lo.toNat < 2 ^ 16),
    Nat.mod_eq_of_lt (by omega : hi.toNat < 2 ^ 16), Nat.shiftLeft_eq,
    Nat.mod_eq_of_lt (by omega), Nat.or_comm]
  have h := Nat.two_pow_add_eq_or_of_lt (i := 8) (b := lo.toNat) (by omega) hi.toNat
  have e : hi.toNat * 2 ^ 8 = 2 ^ 8 * hi.toNat := Nat.mul_comm _ _
  rw [e, ← h]
  omega

theorem decode_cons (op : Byte) (rest : List Byte) : decode (op :: rest) = decodeOpcode op rest :=
  rfl

/-- The ranges of the opcode map (R54): REST, NOTE, the fourteen single opcodes, TERM. -/
theorem opcode_cases (op : Byte) :
    op < 0x80 ∨ (¬ op < 0x80 ∧ op < 0xE0) ∨ op = 0xE0 ∨ op = 0xE1 ∨ op = 0xE2 ∨ op = 0xE3 ∨
      op = 0xE4 ∨ op = 0xE5 ∨ op = 0xE6 ∨ op = 0xE7 ∨ op = 0xE9 ∨ op = 0xEA ∨ op = 0xEB ∨
      op = 0xEC ∨ isTermOpcode op = true := by
  revert op
  decide

theorem decodeOpcode_rest {op : Byte} (h : op < 0x80) (rest : List Byte) :
    decodeOpcode op rest = .ok (.rest (op.setWidth 7), rest) := by
  rw [decodeOpcode, if_pos h]

theorem decodeOpcode_note {op : Byte} (h : ¬ op < 0x80) (h' : op < 0xE0) (rest : List Byte) :
    decodeOpcode op rest = decodeNote (op.setWidth 7) rest := by
  rw [decodeOpcode, if_neg h, if_pos h']

theorem decodeOpcode_E0 (rest : List Byte) :
    decodeOpcode 0xE0 rest = decodeByteOperand "SET_PATCH" .setPatch rest := rfl

theorem decodeOpcode_E1 (rest : List Byte) :
    decodeOpcode 0xE1 rest = decodeByteOperand "SET_VOLUME" .setVolume rest := rfl

theorem decodeOpcode_E2 (rest : List Byte) :
    decodeOpcode 0xE2 rest = decodeByteOperand "REPEAT_START" .repeatStart rest := rfl

theorem decodeOpcode_E3 (rest : List Byte) : decodeOpcode 0xE3 rest = .ok (.repeatBreak, rest) :=
  rfl

theorem decodeOpcode_E4 (rest : List Byte) : decodeOpcode 0xE4 rest = .ok (.repeatEnd, rest) :=
  rfl

theorem decodeOpcode_E5 (rest : List Byte) :
    decodeOpcode 0xE5 rest = decodeByteOperand "SET_NOISE" .setNoise rest := rfl

theorem decodeOpcode_E6 (rest : List Byte) : decodeOpcode 0xE6 rest = .ok (.volumeUp, rest) := rfl

theorem decodeOpcode_E7 (rest : List Byte) : decodeOpcode 0xE7 rest = .ok (.volumeDown, rest) :=
  rfl

theorem decodeOpcode_E9 (rest : List Byte) : decodeOpcode 0xE9 rest = decodeDetune rest := rfl

theorem decodeOpcode_EA (rest : List Byte) : decodeOpcode 0xEA rest = decodeLfo rest := rfl

theorem decodeOpcode_EB (rest : List Byte) :
    decodeOpcode 0xEB rest = decodeByteOperand "LFO_ENABLE" .lfoEnable rest := rfl

theorem decodeOpcode_EC (rest : List Byte) :
    decodeOpcode 0xEC rest = decodeByteOperand "SET_MIX" .setMix rest := rfl

theorem decodeOpcode_term {op : Byte} (h : isTermOpcode op = true) (rest : List Byte) :
    decodeOpcode op rest = .ok (.term op, rest) := by
  have hs : ¬ op < 0x80 ∧ ¬ op < 0xE0 ∧ op ≠ 0xE0 ∧ op ≠ 0xE1 ∧ op ≠ 0xE2 ∧ op ≠ 0xE3 ∧
      op ≠ 0xE4 ∧ op ≠ 0xE5 ∧ op ≠ 0xE6 ∧ op ≠ 0xE7 ∧ op ≠ 0xE9 ∧ op ≠ 0xEA ∧ op ≠ 0xEB ∧
      op ≠ 0xEC := by
    revert op
    decide
  simp only [decodeOpcode, hs, if_false]

/-- A format F1 instruction decodes exactly where its operand byte is there. -/
theorem decodeByteOperand_ok {m : String} {make : Byte → Instr} {bytes rest : List Byte}
    {i : Instr} (h : decodeByteOperand m make bytes = .ok (i, rest)) :
    ∃ b, bytes = b :: rest ∧ i = make b := by
  cases bytes with
  | nil => cases h
  | cons b r =>
    injection h with h
    injection h with h1 h2
    exact ⟨b, by rw [h2], h1.symm⟩

end Sys2Proof
end

