-- ==== Sys2Proof/Laws/Memory.lean ====
section
/-! SUPPORT. The laws of song memory: a filled location reads back, filling one leaves the others
alone, and every operation keeps the canonical form. -/

namespace Sys2Proof.Machine

open Sys2Proof

theorem Memory.read_of_below {lo : Nat} {m : Memory} (h : Memory.wfFrom lo m = true) {a : Nat}
    (ha : a < lo) : Memory.read m a = Memory.unlisted := by
  induction m generalizing lo with
  | nil => rfl
  | cons c rest ih =>
    obtain ⟨k, v⟩ := c
    simp only [Memory.wfFrom, Bool.and_eq_true, decide_eq_true_eq] at h
    obtain ⟨⟨⟨h1, _⟩, _⟩, h4⟩ := h
    simp only [Memory.read]
    rw [if_neg (by omega)]
    exact ih h4 (by omega)

theorem Memory.wfFrom_mono {lo lo' : Nat} (hle : lo' ≤ lo) {m : Memory}
    (h : Memory.wfFrom lo m = true) : Memory.wfFrom lo' m = true := by
  cases m with
  | nil => rfl
  | cons c rest =>
    obtain ⟨k, v⟩ := c
    simp only [Memory.wfFrom, Bool.and_eq_true, decide_eq_true_eq] at h ⊢
    exact ⟨⟨⟨by omega, h.1.1.2⟩, h.1.2⟩, h.2⟩

/-- Filling a location keeps the canonical form. -/
theorem Memory.wfFrom_write {lo : Nat} {m : Memory} (h : Memory.wfFrom lo m = true) {a : Nat}
    (hlo : lo ≤ a) (ha : a < Config.addressCount) (b : Byte) :
    Memory.wfFrom lo (Memory.write m a b) = true := by
  induction m generalizing lo with
  | nil =>
    simp only [Memory.write]
    split
    · rfl
    · simp [Memory.wfFrom, *]
  | cons c rest ih =>
    obtain ⟨k, v⟩ := c
    have hk := h
    simp only [Memory.wfFrom, Bool.and_eq_true, decide_eq_true_eq] at hk
    obtain ⟨⟨⟨h1, h2⟩, h3⟩, h4⟩ := hk
    simp only [Memory.write]
    split
    · split
      · exact h
      · simp only [Memory.wfFrom, Bool.and_eq_true, decide_eq_true_eq]
        exact ⟨⟨⟨hlo, ha⟩, by simp [*]⟩, ⟨⟨by omega, h2⟩, h3⟩, h4⟩
    · split
      · split
        · exact Memory.wfFrom_mono (by omega) h4
        · simp only [Memory.wfFrom, Bool.and_eq_true, decide_eq_true_eq]
          exact ⟨⟨⟨h1, h2⟩, by simp [*]⟩, h4⟩
      · simp only [Memory.wfFrom, Bool.and_eq_true, decide_eq_true_eq]
        exact ⟨⟨⟨h1, h2⟩, h3⟩, ih h4 (by omega)⟩

theorem Memory.wf_write {m : Memory} (h : m.wf = true) {a : Nat} (ha : a < Config.addressCount)
    (b : Byte) : (Memory.write m a b).wf = true :=
  Memory.wfFrom_write h (Nat.zero_le a) ha b

theorem Memory.wf_writeBytes {m : Memory} (h : m.wf = true) (a : Word) (bytes : List Byte) :
    (Memory.writeBytes m a bytes).wf = true := by
  induction bytes generalizing m a with
  | nil => exact h
  | cons b rest ih => exact ih (Memory.wf_write h a.isLt b) (a + 1)

/-- The memory of `State.reset` is in canonical form. -/
theorem Memory.wf_reset : State.reset.params.song.wf = true := rfl

theorem Memory.read_write_same {lo : Nat} {m : Memory} (h : Memory.wfFrom lo m = true) (a : Nat)
    (b : Byte) : Memory.read (Memory.write m a b) a = b := by
  induction m generalizing lo with
  | nil =>
    simp only [Memory.write]
    split <;> simp [Memory.read, *]
  | cons c rest ih =>
    obtain ⟨k, v⟩ := c
    simp only [Memory.wfFrom, Bool.and_eq_true, decide_eq_true_eq] at h
    obtain ⟨_, h4⟩ := h
    simp only [Memory.write]
    split
    · split
      · rename_i hlt hb
        rw [hb, Memory.read, if_neg (by omega)]
        exact Memory.read_of_below h4 (by omega)
      · simp [Memory.read]
    · split
      · split
        · rename_i hak hb
          rw [hb]
          exact Memory.read_of_below h4 (by omega)
        · simp [Memory.read, *]
      · rename_i h1 h2
        simp only [Memory.read, if_neg h2]
        exact ih h4

theorem Memory.read_write_other (m : Memory) {a a' : Nat} (ha : a' ≠ a) (b : Byte) :
    Memory.read (Memory.write m a b) a' = Memory.read m a' := by
  induction m with
  | nil =>
    simp only [Memory.write]
    split <;> simp [Memory.read, ha]
  | cons c rest ih =>
    obtain ⟨k, v⟩ := c
    simp only [Memory.write]
    split
    · split <;> simp [Memory.read, ha]
    · split
      · split <;> simp_all [Memory.read]
      · simp only [Memory.read, ih]

end Sys2Proof.Machine
end

