-- ==== Sys2Proof/Laws/State.lean ====
section
/-! SUPPORT. What each update of the state leaves in each field, so that no later proof unfolds a
record update, and the laws of the per-channel tables. -/

namespace Sys2Proof.Machine

open Sys2Proof

section PerChannelLaws

variable {α : Type} (v : PerChannel α)

@[simp] theorem PerChannel.get_set_same (ch : Channel) (x : α) : (v.set ch x).get ch = x := by
  cases ch <;> rfl

theorem PerChannel.get_set_other {ch ch' : Channel} (h : ch' ≠ ch) (x : α) :
    (v.set ch x).get ch' = v.get ch' := by
  cases ch <;> cases ch' <;> first | rfl | exact absurd rfl h

theorem PerChannel.get_set (ch ch' : Channel) (x : α) :
    (v.set ch x).get ch' = if ch' = ch then x else v.get ch' := by
  cases ch <;> cases ch' <;> rfl

@[simp] theorem PerChannel.set_set (ch : Channel) (x y : α) :
    (v.set ch x).set ch y = v.set ch y := by
  cases ch <;> rfl

theorem PerChannel.set_get (ch : Channel) : v.set ch (v.get ch) = v := by
  cases ch <;> rfl

@[simp] theorem PerChannel.get_ch0 : v.get .ch0 = v.ch0 := rfl
@[simp] theorem PerChannel.get_ch1 : v.get .ch1 = v.ch1 := rfl
@[simp] theorem PerChannel.get_ch2 : v.get .ch2 = v.ch2 := rfl

/-- Two tables are the same when every channel's entry is. -/
theorem PerChannel.ext_get {v w : PerChannel α} (h : ∀ ch, v.get ch = w.get ch) : v = w := by
  have h0 := h .ch0
  have h1 := h .ch1
  have h2 := h .ch2
  cases v; cases w
  simp only [PerChannel.get] at h0 h1 h2
  subst h0 h1 h2
  rfl

end PerChannelLaws

section Updates

variable (s : State)


/-! `putPart` -/

@[simp] theorem State.putPart_params (ch : Channel) (p : Part) :
    (s.putPart ch p).params = s.params := rfl
@[simp] theorem State.putPart_slots (ch : Channel) (p : Part) :
    (s.putPart ch p).slots = s.slots.set ch (some p) := rfl
@[simp] theorem State.putPart_patchTableAddress (ch : Channel) (p : Part) :
    (s.putPart ch p).patchTableAddress = s.patchTableAddress := rfl
@[simp] theorem State.putPart_maxLoopCount (ch : Channel) (p : Part) :
    (s.putPart ch p).maxLoopCount = s.maxLoopCount := rfl
@[simp] theorem State.putPart_spt (ch : Channel) (p : Part) :
    (s.putPart ch p).spt = s.spt := rfl
@[simp] theorem State.putPart_faulted (ch : Channel) (p : Part) :
    (s.putPart ch p).faulted = s.faulted := rfl
@[simp] theorem State.putPart_loaded (ch : Channel) (p : Part) :
    (s.putPart ch p).loaded = s.loaded := rfl
@[simp] theorem State.putPart_trace (ch : Channel) (p : Part) :
    (s.putPart ch p).trace = s.trace := rfl
@[simp] theorem State.putPart_sink (ch : Channel) (p : Part) :
    (s.putPart ch p).sink = s.sink := rfl
@[simp] theorem State.putPart_activity (ch : Channel) (p : Part) :
    (s.putPart ch p).activity = s.activity := rfl
@[simp] theorem State.putPart_inbox (ch : Channel) (p : Part) :
    (s.putPart ch p).inbox = s.inbox := rfl
@[simp] theorem State.putPart_results (ch : Channel) (p : Part) :
    (s.putPart ch p).results = s.results := rfl
@[simp] theorem State.putPart_buffer (ch : Channel) (p : Part) :
    (s.putPart ch p).buffer = s.buffer := rfl
@[simp] theorem State.putPart_draws (ch : Channel) (p : Part) :
    (s.putPart ch p).draws = s.draws := rfl

/-! `dropPart` -/

@[simp] theorem State.dropPart_params (ch : Channel) :
    (s.dropPart ch).params = s.params := rfl
@[simp] theorem State.dropPart_slots (ch : Channel) :
    (s.dropPart ch).slots = s.slots.set ch none := rfl
@[simp] theorem State.dropPart_patchTableAddress (ch : Channel) :
    (s.dropPart ch).patchTableAddress = s.patchTableAddress := rfl
@[simp] theorem State.dropPart_maxLoopCount (ch : Channel) :
    (s.dropPart ch).maxLoopCount = s.maxLoopCount := rfl
@[simp] theorem State.dropPart_spt (ch : Channel) :
    (s.dropPart ch).spt = s.spt := rfl
@[simp] theorem State.dropPart_faulted (ch : Channel) :
    (s.dropPart ch).faulted = s.faulted := rfl
@[simp] theorem State.dropPart_loaded (ch : Channel) :
    (s.dropPart ch).loaded = s.loaded := rfl
@[simp] theorem State.dropPart_trace (ch : Channel) :
    (s.dropPart ch).trace = s.trace := rfl
@[simp] theorem State.dropPart_sink (ch : Channel) :
    (s.dropPart ch).sink = s.sink := rfl
@[simp] theorem State.dropPart_activity (ch : Channel) :
    (s.dropPart ch).activity = s.activity := rfl
@[simp] theorem State.dropPart_inbox (ch : Channel) :
    (s.dropPart ch).inbox = s.inbox := rfl
@[simp] theorem State.dropPart_results (ch : Channel) :
    (s.dropPart ch).results = s.results := rfl
@[simp] theorem State.dropPart_buffer (ch : Channel) :
    (s.dropPart ch).buffer = s.buffer := rfl
@[simp] theorem State.dropPart_draws (ch : Channel) :
    (s.dropPart ch).draws = s.draws := rfl

/-! `goto` -/

@[simp] theorem State.goto_params (a : Activity) :
    (s.goto a).params = s.params := rfl
@[simp] theorem State.goto_slots (a : Activity) :
    (s.goto a).slots = s.slots := rfl
@[simp] theorem State.goto_patchTableAddress (a : Activity) :
    (s.goto a).patchTableAddress = s.patchTableAddress := rfl
@[simp] theorem State.goto_maxLoopCount (a : Activity) :
    (s.goto a).maxLoopCount = s.maxLoopCount := rfl
@[simp] theorem State.goto_spt (a : Activity) :
    (s.goto a).spt = s.spt := rfl
@[simp] theorem State.goto_faulted (a : Activity) :
    (s.goto a).faulted = s.faulted := rfl
@[simp] theorem State.goto_loaded (a : Activity) :
    (s.goto a).loaded = s.loaded := rfl
@[simp] theorem State.goto_trace (a : Activity) :
    (s.goto a).trace = s.trace := rfl
@[simp] theorem State.goto_sink (a : Activity) :
    (s.goto a).sink = s.sink := rfl
@[simp] theorem State.goto_activity (a : Activity) :
    (s.goto a).activity = a := rfl
@[simp] theorem State.goto_inbox (a : Activity) :
    (s.goto a).inbox = s.inbox := rfl
@[simp] theorem State.goto_results (a : Activity) :
    (s.goto a).results = s.results := rfl
@[simp] theorem State.goto_buffer (a : Activity) :
    (s.goto a).buffer = s.buffer := rfl
@[simp] theorem State.goto_draws (a : Activity) :
    (s.goto a).draws = s.draws := rfl

/-! `emit` -/

@[simp] theorem State.emit_params (e : Event) :
    (s.emit e).params = s.params := rfl
@[simp] theorem State.emit_slots (e : Event) :
    (s.emit e).slots = s.slots := rfl
@[simp] theorem State.emit_patchTableAddress (e : Event) :
    (s.emit e).patchTableAddress = s.patchTableAddress := rfl
@[simp] theorem State.emit_maxLoopCount (e : Event) :
    (s.emit e).maxLoopCount = s.maxLoopCount := rfl
@[simp] theorem State.emit_spt (e : Event) :
    (s.emit e).spt = s.spt := rfl
@[simp] theorem State.emit_faulted (e : Event) :
    (s.emit e).faulted = s.faulted := rfl
@[simp] theorem State.emit_loaded (e : Event) :
    (s.emit e).loaded = s.loaded := rfl
@[simp] theorem State.emit_trace (e : Event) :
    (s.emit e).trace = s.trace ++ [e] := rfl
@[simp] theorem State.emit_sink (e : Event) :
    (s.emit e).sink = s.sink.apply e := rfl
@[simp] theorem State.emit_activity (e : Event) :
    (s.emit e).activity = s.activity := rfl
@[simp] theorem State.emit_inbox (e : Event) :
    (s.emit e).inbox = s.inbox := rfl
@[simp] theorem State.emit_results (e : Event) :
    (s.emit e).results = s.results := rfl
@[simp] theorem State.emit_buffer (e : Event) :
    (s.emit e).buffer = s.buffer := rfl
@[simp] theorem State.emit_draws (e : Event) :
    (s.emit e).draws = s.draws := rfl

/-! `complete` -/

@[simp] theorem State.complete_params (r : Result) :
    (s.complete r).params = s.params := rfl
@[simp] theorem State.complete_slots (r : Result) :
    (s.complete r).slots = s.slots := rfl
@[simp] theorem State.complete_patchTableAddress (r : Result) :
    (s.complete r).patchTableAddress = s.patchTableAddress := rfl
@[simp] theorem State.complete_maxLoopCount (r : Result) :
    (s.complete r).maxLoopCount = s.maxLoopCount := rfl
@[simp] theorem State.complete_spt (r : Result) :
    (s.complete r).spt = s.spt := rfl
@[simp] theorem State.complete_faulted (r : Result) :
    (s.complete r).faulted = s.faulted := rfl
@[simp] theorem State.complete_loaded (r : Result) :
    (s.complete r).loaded = s.loaded := rfl
@[simp] theorem State.complete_trace (r : Result) :
    (s.complete r).trace = s.trace := rfl
@[simp] theorem State.complete_sink (r : Result) :
    (s.complete r).sink = s.sink := rfl
@[simp] theorem State.complete_activity (r : Result) :
    (s.complete r).activity = .idle := rfl
@[simp] theorem State.complete_inbox (r : Result) :
    (s.complete r).inbox = s.inbox := rfl
@[simp] theorem State.complete_results (r : Result) :
    (s.complete r).results = s.results ++ [r] := rfl
@[simp] theorem State.complete_buffer (r : Result) :
    (s.complete r).buffer = s.buffer := rfl
@[simp] theorem State.complete_draws (r : Result) :
    (s.complete r).draws = s.draws := rfl

/-! `raise` -/

@[simp] theorem State.raise_params (a : Word) (ch : Option Channel) :
    (s.raise a ch).params = s.params := rfl
@[simp] theorem State.raise_slots (a : Word) (ch : Option Channel) :
    (s.raise a ch).slots = s.slots := rfl
@[simp] theorem State.raise_patchTableAddress (a : Word) (ch : Option Channel) :
    (s.raise a ch).patchTableAddress = s.patchTableAddress := rfl
@[simp] theorem State.raise_maxLoopCount (a : Word) (ch : Option Channel) :
    (s.raise a ch).maxLoopCount = s.maxLoopCount := rfl
@[simp] theorem State.raise_spt (a : Word) (ch : Option Channel) :
    (s.raise a ch).spt = s.spt := rfl
@[simp] theorem State.raise_faulted (a : Word) (ch : Option Channel) :
    (s.raise a ch).faulted = true := rfl
@[simp] theorem State.raise_loaded (a : Word) (ch : Option Channel) :
    (s.raise a ch).loaded = s.loaded := rfl
@[simp] theorem State.raise_trace (a : Word) (ch : Option Channel) :
    (s.raise a ch).trace = s.trace := rfl
@[simp] theorem State.raise_sink (a : Word) (ch : Option Channel) :
    (s.raise a ch).sink = s.sink := rfl
@[simp] theorem State.raise_activity (a : Word) (ch : Option Channel) :
    (s.raise a ch).activity = .idle := rfl
@[simp] theorem State.raise_inbox (a : Word) (ch : Option Channel) :
    (s.raise a ch).inbox = s.inbox := rfl
@[simp] theorem State.raise_results (a : Word) (ch : Option Channel) :
    (s.raise a ch).results = s.results ++ [.faulted ⟨.readOutOfRange, a, ch⟩] := rfl
@[simp] theorem State.raise_buffer (a : Word) (ch : Option Channel) :
    (s.raise a ch).buffer = s.buffer := rfl
@[simp] theorem State.raise_draws (a : Word) (ch : Option Channel) :
    (s.raise a ch).draws = s.draws := rfl

/-! `raiseIn` -/

@[simp] theorem State.raiseIn_params (ch : Channel) (p : Part) (a : Word) :
    (s.raiseIn ch p a).params = s.params := rfl
@[simp] theorem State.raiseIn_slots (ch : Channel) (p : Part) (a : Word) :
    (s.raiseIn ch p a).slots = s.slots.set ch (some p) := rfl
@[simp] theorem State.raiseIn_patchTableAddress (ch : Channel) (p : Part) (a : Word) :
    (s.raiseIn ch p a).patchTableAddress = s.patchTableAddress := rfl
@[simp] theorem State.raiseIn_maxLoopCount (ch : Channel) (p : Part) (a : Word) :
    (s.raiseIn ch p a).maxLoopCount = s.maxLoopCount := rfl
@[simp] theorem State.raiseIn_spt (ch : Channel) (p : Part) (a : Word) :
    (s.raiseIn ch p a).spt = s.spt := rfl
@[simp] theorem State.raiseIn_faulted (ch : Channel) (p : Part) (a : Word) :
    (s.raiseIn ch p a).faulted = true := rfl
@[simp] theorem State.raiseIn_loaded (ch : Channel) (p : Part) (a : Word) :
    (s.raiseIn ch p a).loaded = s.loaded := rfl
@[simp] theorem State.raiseIn_trace (ch : Channel) (p : Part) (a : Word) :
    (s.raiseIn ch p a).trace = s.trace := rfl
@[simp] theorem State.raiseIn_sink (ch : Channel) (p : Part) (a : Word) :
    (s.raiseIn ch p a).sink = s.sink := rfl
@[simp] theorem State.raiseIn_activity (ch : Channel) (p : Part) (a : Word) :
    (s.raiseIn ch p a).activity = .idle := rfl
@[simp] theorem State.raiseIn_inbox (ch : Channel) (p : Part) (a : Word) :
    (s.raiseIn ch p a).inbox = s.inbox := rfl
@[simp] theorem State.raiseIn_results (ch : Channel) (p : Part) (a : Word) :
    (s.raiseIn ch p a).results = s.results ++ [.faulted ⟨.readOutOfRange, a, some ch⟩] := rfl
@[simp] theorem State.raiseIn_buffer (ch : Channel) (p : Part) (a : Word) :
    (s.raiseIn ch p a).buffer = s.buffer := rfl
@[simp] theorem State.raiseIn_draws (ch : Channel) (p : Part) (a : Word) :
    (s.raiseIn ch p a).draws = s.draws := rfl

@[simp] theorem State.putPart_putPart (ch : Channel) (p q : Part) :
    (s.putPart ch p).putPart ch q = s.putPart ch q := by
  simp [State.putPart]

theorem State.putPart_self {ch : Channel} {p : Part} (h : s.slots.get ch = some p) :
    s.putPart ch p = s := by
  rw [State.putPart, ← h, PerChannel.set_get]

/-! `emitAll` -/

@[simp] theorem State.emitAll_nil : s.emitAll [] = s := rfl
@[simp] theorem State.emitAll_cons (e : Event) (es : List Event) :
    s.emitAll (e :: es) = (s.emit e).emitAll es := rfl

@[simp] theorem State.emitAll_params (es : List Event) : (s.emitAll es).params = s.params := by
  induction es generalizing s with
  | nil => rfl
  | cons e es ih => simp [ih]

@[simp] theorem State.emitAll_slots (es : List Event) : (s.emitAll es).slots = s.slots := by
  induction es generalizing s with
  | nil => rfl
  | cons e es ih => simp [ih]

@[simp] theorem State.emitAll_patchTableAddress (es : List Event) : (s.emitAll es).patchTableAddress = s.patchTableAddress := by
  induction es generalizing s with
  | nil => rfl
  | cons e es ih => simp [ih]

@[simp] theorem State.emitAll_maxLoopCount (es : List Event) : (s.emitAll es).maxLoopCount = s.maxLoopCount := by
  induction es generalizing s with
  | nil => rfl
  | cons e es ih => simp [ih]

@[simp] theorem State.emitAll_spt (es : List Event) : (s.emitAll es).spt = s.spt := by
  induction es generalizing s with
  | nil => rfl
  | cons e es ih => simp [ih]

@[simp] theorem State.emitAll_faulted (es : List Event) : (s.emitAll es).faulted = s.faulted := by
  induction es generalizing s with
  | nil => rfl
  | cons e es ih => simp [ih]

@[simp] theorem State.emitAll_loaded (es : List Event) : (s.emitAll es).loaded = s.loaded := by
  induction es generalizing s with
  | nil => rfl
  | cons e es ih => simp [ih]

@[simp] theorem State.emitAll_activity (es : List Event) : (s.emitAll es).activity = s.activity := by
  induction es generalizing s with
  | nil => rfl
  | cons e es ih => simp [ih]

@[simp] theorem State.emitAll_inbox (es : List Event) : (s.emitAll es).inbox = s.inbox := by
  induction es generalizing s with
  | nil => rfl
  | cons e es ih => simp [ih]

@[simp] theorem State.emitAll_results (es : List Event) : (s.emitAll es).results = s.results := by
  induction es generalizing s with
  | nil => rfl
  | cons e es ih => simp [ih]

@[simp] theorem State.emitAll_buffer (es : List Event) : (s.emitAll es).buffer = s.buffer := by
  induction es generalizing s with
  | nil => rfl
  | cons e es ih => simp [ih]

@[simp] theorem State.emitAll_draws (es : List Event) : (s.emitAll es).draws = s.draws := by
  induction es generalizing s with
  | nil => rfl
  | cons e es ih => simp [ih]

@[simp] theorem State.emitAll_trace (es : List Event) :
    (s.emitAll es).trace = s.trace ++ es := by
  induction es generalizing s with
  | nil => simp
  | cons e es ih => simp [ih]

@[simp] theorem State.emitAll_sink (es : List Event) :
    (s.emitAll es).sink = es.foldl Sink.apply s.sink := by
  induction es generalizing s with
  | nil => rfl
  | cons e es ih => simp [ih]

end Updates

end Sys2Proof.Machine
end

