-- ==== Sys2Proof/Laws/Ops.lean ====
section
/-! SUPPORT. For each shared operation, once, everything it can do: reads and operand fetches, the
frame of a meaning, the patch load, the fetch of an instruction, and a step. -/

namespace Sys2Proof.Machine

open Sys2Proof

/-! ### Reads (20_memory.md R34, R35) -/

theorem Params.readByte_of_lt {P : Params} {a : Word} (h : a.toNat < P.blobLen) :
    P.readByte a = .ok (P.songByte a) := if_pos h

theorem Params.readByte_of_ge {P : Params} {a : Word} (h : P.blobLen ≤ a.toNat) :
    P.readByte a = .error a := if_neg (by omega)

theorem Params.readByte_cases (P : Params) (a : Word) :
    (a.toNat < P.blobLen ∧ P.readByte a = .ok (P.songByte a)) ∨
      (P.blobLen ≤ a.toNat ∧ P.readByte a = .error a) := by
  by_cases h : a.toNat < P.blobLen
  · exact .inl ⟨h, P.readByte_of_lt h⟩
  · exact .inr ⟨by omega, P.readByte_of_ge (by omega)⟩

theorem Params.readShort_cases (P : Params) (a : Word) :
    (a.toNat < P.blobLen ∧ (a + 1).toNat < P.blobLen ∧
        P.readShort a = .ok (le16 (P.songByte a) (P.songByte (a + 1)))) ∨
      (P.blobLen ≤ a.toNat ∧ P.readShort a = .error a) ∨
      (a.toNat < P.blobLen ∧ P.blobLen ≤ (a + 1).toNat ∧ P.readShort a = .error (a + 1)) := by
  unfold Params.readShort
  obtain ⟨h, e⟩ | ⟨h, e⟩ := P.readByte_cases a
  · obtain ⟨h', e'⟩ | ⟨h', e'⟩ := P.readByte_cases (a + 1) <;> simp only [e, e']
    · exact .inl ⟨h, h', trivial⟩
    · exact .inr (.inr ⟨h, h', trivial⟩)
  · simp only [e]
    exact .inr (.inl ⟨h, trivial⟩)

/-! ### Operand fetches -/

theorem Part.passByte_cases (P : Params) (p : Part) :
    (p.cursor.toNat < P.blobLen ∧ p.passByte P = .ok { p with cursor := p.cursor + 1 }) ∨
      (P.blobLen ≤ p.cursor.toNat ∧ p.passByte P = .error p.cursor) := by
  unfold Part.passByte
  obtain ⟨h, e⟩ | ⟨h, e⟩ := P.readByte_cases p.cursor <;> simp only [e]
  · exact .inl ⟨h, trivial⟩
  · exact .inr ⟨h, trivial⟩

/-- A one-byte operand is fetched, or the model fault is taken at the cursor. -/
theorem State.afterByte_cases (s : State) (ch : Channel) (p : Part) (go : Part → State) :
    (p.cursor.toNat < s.params.blobLen ∧
        s.afterByte ch p go = go { p with cursor := p.cursor + 1 }) ∨
      (s.params.blobLen ≤ p.cursor.toNat ∧ s.afterByte ch p go = s.raiseIn ch p p.cursor) := by
  unfold State.afterByte
  obtain ⟨h, e⟩ | ⟨h, e⟩ := p.passByte_cases s.params <;> simp only [e]
  · exact .inl ⟨h, trivial⟩
  · exact .inr ⟨h, trivial⟩

theorem State.afterByte_of_lt {s : State} {ch : Channel} {p : Part} {go : Part → State}
    (h : p.cursor.toNat < s.params.blobLen) :
    s.afterByte ch p go = go { p with cursor := p.cursor + 1 } := by
  obtain ⟨_, e⟩ | ⟨h', _⟩ := s.afterByte_cases ch p go
  · exact e
  · omega

theorem State.afterByte_of_ge {s : State} {ch : Channel} {p : Part} {go : Part → State}
    (h : s.params.blobLen ≤ p.cursor.toNat) : s.afterByte ch p go = s.raiseIn ch p p.cursor := by
  obtain ⟨h', _⟩ | ⟨_, e⟩ := s.afterByte_cases ch p go
  · omega
  · exact e

/-- A two-byte operand is fetched, or the model fault is taken at its first byte outside the
blob with the cursor where it was. -/
theorem State.afterShort_cases (s : State) (ch : Channel) (p : Part) (go : Part → State) :
    (p.cursor.toNat < s.params.blobLen ∧ (p.cursor + 1).toNat < s.params.blobLen ∧
        s.afterShort ch p go = go { p with cursor := p.cursor + 2 }) ∨
      (s.params.blobLen ≤ p.cursor.toNat ∧ s.afterShort ch p go = s.raiseIn ch p p.cursor) ∨
      (p.cursor.toNat < s.params.blobLen ∧ s.params.blobLen ≤ (p.cursor + 1).toNat ∧
        s.afterShort ch p go = s.raiseIn ch p (p.cursor + 1)) := by
  unfold State.afterShort Part.passShort
  obtain ⟨h, h', e⟩ | ⟨h, e⟩ | ⟨h, h', e⟩ := s.params.readShort_cases p.cursor <;> simp only [e]
  · exact .inl ⟨h, h', trivial⟩
  · exact .inr (.inl ⟨h, trivial⟩)
  · exact .inr (.inr ⟨h, h', trivial⟩)

/-! ### A meaning's frame -/

theorem inConsume_of_consuming {s : State} {c : Caller} {ch : Channel} {p : Part}
    (ha : s.activity = .consuming c ch) (hp : s.slots.get ch = some p)
    (body : Caller → Channel → Part → State) : inConsume s body = .next (body c ch p) := by
  simp only [inConsume, ha, hp]

/-- A meaning answers a next state only for a Part in its consume loop, and then its body's. -/
theorem inConsume_next {s t : State} {body : Caller → Channel → Part → State}
    (h : inConsume s body = .next t) :
    ∃ c ch p, s.activity = .consuming c ch ∧ s.slots.get ch = some p ∧ t = body c ch p := by
  unfold inConsume at h
  split at h
  · rename_i c ch ha
    split at h
    · rename_i p hp
      exact ⟨c, ch, p, ha, hp, by injection h with h; exact h.symm⟩
    · cases h
  · cases h

/-! ### The patch load (40_envelope.md R60) -/

/-- Loading patch fields writes no field but through the writers given; `current` and `phase` are
never written by the patch writers. -/
theorem loadPatch_current_phase (P : Params) (ws : List (Byte → Envelope → Envelope)) (a : Word)
    (e : Envelope)
    (h : ∀ w ∈ ws, ∀ v e, (w v e).current = e.current ∧ (w v e).phase = e.phase) :
    (loadPatch P ws a e).1.current = e.current ∧ (loadPatch P ws a e).1.phase = e.phase := by
  induction ws generalizing a e with
  | nil => exact ⟨rfl, rfl⟩
  | cons w ws ih =>
    simp only [loadPatch]
    split
    · exact ⟨rfl, rfl⟩
    · rename_i v _
      have hw := h w (by simp) v e
      have := ih (a + 1) (w v e) (fun w' hw' => h w' (by simp [hw']))
      exact ⟨this.1.trans hw.1, this.2.trans hw.2⟩

theorem patchWriters_keep_level (w : Byte → Envelope → Envelope) (hw : w ∈ patchWriters) (v : Byte)
    (e : Envelope) : (w v e).current = e.current ∧ (w v e).phase = e.phase := by
  simp only [patchWriters, List.mem_cons, List.not_mem_nil, or_false] at hw
  rcases hw with rfl | rfl | rfl | rfl | rfl | rfl <;> exact ⟨rfl, rfl⟩

/-! ### The fetch and a step -/

/-- Everything the fetch of an instruction can do where the Part is present. -/
theorem State.fetch_cases {s : State} {ch : Channel} {p : Part} (hp : s.slots.get ch = some p) :
    (p.cursor.toNat < s.params.blobLen ∧
        ((∃ i rest, decode (s.params.window p.cursor) = .ok (i, rest) ∧
            s.fetch ch = .run i (s.putPart ch { p with cursor := p.cursor + 1 })) ∨
          (∃ err, decode (s.params.window p.cursor) = .error err ∧
            s.fetch ch = .stop .undecodable))) ∨
      (s.params.blobLen ≤ p.cursor.toNat ∧ s.fetch ch = .raised (s.raiseIn ch p p.cursor)) := by
  unfold State.fetch
  simp only [hp]
  obtain ⟨h, e⟩ | ⟨h, e⟩ := p.passByte_cases s.params <;> simp only [e]
  · refine .inl ⟨h, ?_⟩
    cases hd : decode (s.params.window p.cursor) with
    | error err => exact .inr ⟨err, rfl, rfl⟩
    | ok r => exact .inl ⟨r.1, r.2, rfl, rfl⟩
  · exact .inr ⟨h, trivial⟩

/-- Everything a step can do: one case for each activity, each citing its own operation. -/
theorem step_cases {s t : State} (h : step s = .next t) :
    (s.activity = .idle ∧ t = s.accept) ∨
      (∃ n k, s.activity = .producing n k ∧ t = s.produceTurn n k) ∨
      (∃ c ch, s.activity = .visiting c ch ∧ t = s.visit c ch) ∨
      (∃ c ch, s.activity = .consuming c ch ∧ consumeTurn s ch = .next t) ∨
      (∃ c ch alive, s.activity = .returned c ch alive ∧ t = s.leave c ch alive) ∨
      (s.activity = .hung ∧ t = s) := by
  unfold step at h
  split at h
  · rename_i ha
    exact .inl ⟨ha, by injection h with h; exact h.symm⟩
  · rename_i n k ha
    exact .inr (.inl ⟨n, k, ha, by injection h with h; exact h.symm⟩)
  · rename_i c ch ha
    exact .inr (.inr (.inl ⟨c, ch, ha, by injection h with h; exact h.symm⟩))
  · rename_i c ch ha
    exact .inr (.inr (.inr (.inl ⟨c, ch, ha, h⟩)))
  · rename_i c ch alive ha
    exact .inr (.inr (.inr (.inr (.inl ⟨c, ch, alive, ha, by injection h with h; exact h.symm⟩))))
  · rename_i ha
    exact .inr (.inr (.inr (.inr (.inr ⟨ha, by injection h with h; exact h.symm⟩))))

/-- Everything a turn of the consume loop can do where it goes on. -/
theorem consumeTurn_cases {s t : State} {ch : Channel} (h : consumeTurn s ch = .next t) :
    (∃ i s', s.fetch ch = .run i s' ∧ exec i s' = .next t) ∨ s.fetch ch = .raised t := by
  unfold consumeTurn at h
  split at h
  · rename_i i s' hf
    exact .inl ⟨i, s', hf, h⟩
  · rename_i s' hf
    injection h with h
    exact .inr (h ▸ hf)
  · cases h

end Sys2Proof.Machine
end

