-- ==== Sys2Proof/Laws/PerInstr.lean ====
section
/-! SUPPORT. Statements made once per instruction. Family `EncodedLength`: the encoding of an
instruction has as many bytes as 30_encoding.md R52 says, at least one and at most six. -/

namespace Sys2Proof.Laws

open Sys2Proof

/-- The encoding has the length of R52, between 1 and 6 bytes. -/
def EncodedLength.Statement (i : Instr) : Prop :=
  (encode i).length = i.length ∧ 1 ≤ i.length ∧ i.length ≤ 6

theorem EncodedLength.rest (v : BitVec 7) : EncodedLength.Statement (.rest v) := by
  simp [EncodedLength.Statement, encode, Instr.length]

theorem EncodedLength.note (p : BitVec 7) (d : Byte) (tie : Bool) :
    EncodedLength.Statement (.note p d tie) := by
  cases tie <;> simp [EncodedLength.Statement, encode, Instr.length]

theorem EncodedLength.setPatch (n : Byte) : EncodedLength.Statement (.setPatch n) := by
  simp [EncodedLength.Statement, encode, Instr.length]

theorem EncodedLength.setVolume (b : Byte) : EncodedLength.Statement (.setVolume b) := by
  simp [EncodedLength.Statement, encode, Instr.length]

theorem EncodedLength.repeatStart (c : Byte) : EncodedLength.Statement (.repeatStart c) := by
  simp [EncodedLength.Statement, encode, Instr.length]

theorem EncodedLength.repeatBreak : EncodedLength.Statement .repeatBreak := by
  simp [EncodedLength.Statement, encode, Instr.length]

theorem EncodedLength.repeatEnd : EncodedLength.Statement .repeatEnd := by
  simp [EncodedLength.Statement, encode, Instr.length]

theorem EncodedLength.setNoise (b : Byte) : EncodedLength.Statement (.setNoise b) := by
  simp [EncodedLength.Statement, encode, Instr.length]

theorem EncodedLength.volumeUp : EncodedLength.Statement .volumeUp := by
  simp [EncodedLength.Statement, encode, Instr.length]

theorem EncodedLength.volumeDown : EncodedLength.Statement .volumeDown := by
  simp [EncodedLength.Statement, encode, Instr.length]

theorem EncodedLength.setDetune (s : Word) : EncodedLength.Statement (.setDetune s) := by
  simp [EncodedLength.Statement, encode, Instr.length]

theorem EncodedLength.setLfo (delay speed depth : Byte) (x : Word) :
    EncodedLength.Statement (.setLfo delay speed depth x) := by
  simp [EncodedLength.Statement, encode, Instr.length]

theorem EncodedLength.lfoEnable (b : Byte) : EncodedLength.Statement (.lfoEnable b) := by
  simp [EncodedLength.Statement, encode, Instr.length]

theorem EncodedLength.setMix (b : Byte) : EncodedLength.Statement (.setMix b) := by
  simp [EncodedLength.Statement, encode, Instr.length]

theorem EncodedLength.term (op : Byte) : EncodedLength.Statement (.term op) := by
  simp [EncodedLength.Statement, encode, Instr.length]

end Sys2Proof.Laws
end

