-- ==== Sys2Proof/Laws/Play.lean ====
section
/-! SUPPORT. For each operation of the session and of the patch scan, once, everything it can do: the
silencing of a slot, the end of a channel's turn, the test of the sample rate, EnvSet, and reads
under two parameter sets that agree inside the blob. -/

namespace Sys2Proof.Machine

open Sys2Proof

/-! ### The core's runs -/

theorem core_run_next (M : Host.Core) {s t : M.State} (k : Nat) (h : M.step s = .next t) :
    M.run (k + 1) s = M.run k t := by
  simp only [Host.Core.run, h]

/-- A run of one step more is the run and then the step. -/
theorem core_run_succ (M : Host.Core) {s t : M.State} (k : Nat) (h : M.run k s = .next t) :
    M.run (k + 1) s = M.step t := by
  induction k generalizing s with
  | zero =>
    injection h with h
    subst h
    simp only [Host.Core.run]
    cases M.step s <;> rfl
  | succ k ih =>
    unfold Host.Core.run at h
    split at h
    · rename_i e
      rw [core_run_next M (k + 1) e]
      exact ih h
    · cases h
    · cases h

/-! ### Presence -/

theorem State.playing_eq_true_iff (s : State) :
    s.playing = true ↔ s.slots ≠ ⟨none, none, none⟩ := by
  unfold State.playing
  obtain ⟨_, ⟨a, b, c⟩, _⟩ := s
  cases a <;> cases b <;> cases c <;> simp

/-! ### CtxEnd (47_play_context.md R114) -/

theorem State.endSlot_get (s : State) (ch ch' : Channel) :
    (s.endSlot ch).slots.get ch' = if ch' = ch then none else s.slots.get ch' := by
  unfold State.endSlot
  split
  · simp only [State.dropPart_slots, State.emit_slots, PerChannel.get_set]
  · rename_i h
    split
    · rename_i e
      rw [e, h]
    · rfl

/-- Silencing a slot emits at most one event, the slot's volume 0, and changes no other field. -/
theorem State.endSlot_cases (s : State) (ch : Channel) :
    (s.slots.get ch = none ∧ s.endSlot ch = s) ∨
      (∃ p, s.slots.get ch = some p ∧
        s.endSlot ch = (s.emit (.setVolume ch 0)).dropPart ch) := by
  unfold State.endSlot
  cases h : s.slots.get ch with
  | none => exact .inl ⟨rfl, rfl⟩
  | some p => exact .inr ⟨p, rfl, rfl⟩

/-! ### CtxTick (47_play_context.md R113) -/

/-- After a channel's turn the loop goes to the next channel, or the tick is over: a host TICK
reports, a PRODUCE stops or refills the budget. -/
theorem State.afterChannel_cases (s : State) (c : Caller) (ch : Channel) :
    (∃ ch', nextChannel ch = some ch' ∧ s.afterChannel c ch = s.goto (.visiting c ch')) ∨
      (c = .tick ∧ s.afterChannel c ch = s.complete (.ticked s.playing)) ∨
      (∃ n k, c = .produce n k ∧ s.playing = false ∧
        s.afterChannel c ch = s.complete (.produced k)) ∨
      (∃ n k, c = .produce n k ∧ s.playing = true ∧
        s.afterChannel c ch = { s with spt := s.spt.refill, activity := .producing n k }) := by
  unfold State.afterChannel
  cases hn : nextChannel ch with
  | some ch' => exact .inl ⟨ch', rfl, rfl⟩
  | none =>
    cases c with
    | tick => exact .inr (.inl ⟨rfl, rfl⟩)
    | produce n k =>
      cases hp : s.playing with
      | false => exact .inr (.inr (.inl ⟨n, k, rfl, rfl, by simp [State.finishTick, hp]⟩))
      | true => exact .inr (.inr (.inr ⟨n, k, rfl, rfl, by simp [State.finishTick, hp]⟩))

/-! ### LOAD (00_scope.md R7) -/

theorem rateAccepted_iff (sampleRate : Word32) :
    rateAccepted sampleRate = true ↔ 60 ≤ sampleRate.toNat ∧ sampleRate.toNat ≤ 42949672 := by
  unfold rateAccepted
  exact decide_eq_true_iff

/-! ### EnvSet (40_envelope.md R60) -/

/-- EnvSet returns or faults with `current` and `phase` as they were, or never returns. -/
theorem envSet_cases (P : Params) (e : Envelope) (n : Byte) (table : Word) :
    (∃ e' matched, envSet P e n table = .done e' matched ∧ e'.current = e.current ∧
        e'.phase = e.phase) ∨
      (∃ e' a, envSet P e n table = .out e' a ∧ e'.current = e.current ∧ e'.phase = e.phase) ∨
      envSet P e n table = .endless := by
  unfold envSet
  cases patchScan P n Config.addressCount table with
  | sentinel => exact .inl ⟨_, _, rfl, rfl, rfl⟩
  | out x => exact .inr (.inl ⟨_, _, rfl, rfl, rfl⟩)
  | endless => exact .inr (.inr rfl)
  | found a =>
    have h := loadPatch_current_phase P patchWriters (a + 1) e patchWriters_keep_level
    simp only []
    generalize loadPatch _ _ _ _ = w at *
    obtain ⟨e', _ | x⟩ := w
    · exact .inl ⟨_, _, rfl, h⟩
    · exact .inr (.inl ⟨_, _, rfl, h⟩)

/-- A probe that neither stops the patch scan nor matches moves it on by one record. -/
theorem patchScan_step {P : Params} {n : Byte} {a : Word} (hb : a.toNat < P.blobLen)
    (h1 : P.songByte a ≠ Config.patchSentinel) (h2 : P.songByte a ≠ n) (fuel : Nat) :
    patchScan P n (fuel + 1) a = patchScan P n fuel (a + Config.patchRecordSize) := by
  rw [patchScan, Params.readByte_of_lt hb]
  simp only [h1, h2, if_false]

/-- A byte that is not zero moves the title scan on by one address. -/
theorem titleScan_step {P : Params} {a : Word} (hb : a.toNat < P.blobLen) (h : P.songByte a ≠ 0)
    (fuel : Nat) : titleScan P (fuel + 1) a = titleScan P fuel (a + 1) := by
  rw [titleScan, Params.readByte_of_lt hb]
  simp only [h, if_false]

/-! ### Saturating subtraction (00_scope.md section 5) -/

theorem satSub_toNat (a b : Byte) : (satSub a b).toNat = a.toNat - b.toNat := by
  unfold satSub
  by_cases h : a < b
  · rw [if_pos h]
    have : a.toNat < b.toNat := h
    simp only [BitVec.ofNat_eq_ofNat, BitVec.toNat_ofNat, Nat.zero_mod]
    omega
  · rw [if_neg h]
    have h' : ¬ a.toNat < b.toNat := h
    rw [BitVec.toNat_sub_of_le (by exact Nat.le_of_not_lt h')]

end Sys2Proof.Machine
end

