-- ==== Sys2Proof/Tests/Slice0.lean ====
section
/-! SUPPORT. The model's own tests: the check of WellFormed, decodings of words written out from
30_encoding.md, single steps with the expected results of 95_test_vectors.md, and a witness for the
hypotheses of each obligation. -/

namespace Sys2Proof.Tests

open Sys2Proof Sys2Proof.Machine

/-! ### WellFormed refuses what has no encoding (30_encoding.md R51, R54) -/

theorem test_note_pitch_60_is_ill_formed : (Instr.note 0x60 1 false).wellFormed = false := by decide

theorem test_note_pitch_5F_is_well_formed : (Instr.note 0x5F 1 false).wellFormed = true := by decide

theorem test_term_EC_is_ill_formed : (Instr.term 0xEC).wellFormed = false := by decide

theorem test_term_00_is_ill_formed : (Instr.term 0x00).wellFormed = false := by decide

theorem test_term_ED_is_well_formed : (Instr.term 0xED).wellFormed = true := by decide

/-! ### Decoding, a word for each constructor (30_encoding.md R54, 95_test_vectors.md section 2) -/

theorem test_decode_rest : decodeTableWord 8 0x7F = some (.rest 0x7F) := by decide

theorem test_decode_note : decodeTableWord 16 0x01DF = some (.note 0x5F 1 false) := by decide

theorem test_decode_note_tied : decode [0x80, 0x02, 0xE8, 0x81] = .ok (.note 0 2 true, [0x81]) := by
  decide

theorem test_decode_setPatch : decodeTableWord 16 0x05E0 = some (.setPatch 5) := by decide

theorem test_decode_setVolume : decodeTableWord 16 0xFFE1 = some (.setVolume 255) := by decide

theorem test_decode_repeatStart : decodeTableWord 16 0x00E2 = some (.repeatStart 0) := by decide

theorem test_decode_repeatBreak : decodeTableWord 8 0xE3 = some .repeatBreak := by decide

theorem test_decode_repeatEnd : decodeTableWord 8 0xE4 = some .repeatEnd := by decide

theorem test_decode_setNoise : decodeTableWord 16 0x1FE5 = some (.setNoise 31) := by decide

theorem test_decode_volumeUp : decodeTableWord 8 0xE6 = some .volumeUp := by decide

theorem test_decode_volumeDown : decodeTableWord 8 0xE7 = some .volumeDown := by decide

theorem test_decode_setDetune : decodeTableWord 24 0x7FFFE9 = some (.setDetune 32767) := by decide

theorem test_decode_setLfo : decodeTableWord 48 0x8000030201EA = some (.setLfo 1 2 3 0x8000) := by
  decide

theorem test_decode_lfoEnable : decodeTableWord 16 0x07EB = some (.lfoEnable 7) := by decide

theorem test_decode_setMix : decodeTableWord 16 0x03EC = some (.setMix 3) := by decide

theorem test_decode_term : decodeTableWord 8 0xED = some (.term 0xED) := by decide

theorem test_decode_names_the_missing_operand :
    decode [0xE9, 0x01] = .error (.missingOperand "SET_DETUNE") := by decide

/-! ### Small states -/

/-- The fixture tone table of 95_test_vectors.md section 0. -/
def tones : Vector Word 12 :=
  #v[3200, 3020, 2851, 2691, 2540, 2397, 2263, 2136, 2016, 1903, 1796, 1695]

/-- Parameters whose blob is these bytes. -/
def blob (bytes : List Byte) : Params :=
  { song := Memory.writeBytes [] 0 bytes, blobLen := bytes.length, toneTable := tones }

/-- A loaded session over these bytes with this Part alone, at this point of an operation. -/
def at_ (bytes : List Byte) (p : Part) (a : Activity) : State :=
  { State.powerOn (blob bytes) with
    slots := ⟨some p, none, none⟩, loaded := true, spt := ⟨735, 4410, 0xFFFFF9D0, 735⟩
    activity := a }

/-- A Part at the first byte, in the consume loop of a host TICK. -/
def fetching (bytes : List Byte) (p : Part) : State := at_ bytes p (.consuming .tick .ch0)

/-- Channel 0's Part after a step. -/
def part0 : Answer → Option Part
  | .next t => t.slots.ch0
  | _ => none

/-- A field of the state after a step. -/
def see {α : Type} (f : State → α) : Answer → Option α
  | .next t => some (f t)
  | _ => none

/-- A Part just created whose cursor is past an opcode byte at address 0. -/
def past : Part := { Part.fresh 0 with cursor := 1 }

/-! ### One step of each instruction (95_test_vectors.md sections 2.3, 2.5 and 2.6) -/

/-- N7: REST 0x7F. -/
theorem test_rest_127 :
    (part0 (step (fetching [0x7F] (Part.fresh 0)))).map (·.remainingTicks) = some 128 := by decide

/-- N8: a tied REST leaves the envelope phase. -/
theorem test_rest_tied :
    (part0 (step (fetching [0x05]
      { Part.fresh 0 with isTied := true, env := { Envelope.fresh with phase := .decay } }))).map
      (fun p => (p.remainingTicks, p.env.phase, p.isTied)) = some (6, .decay, true) := by decide

/-- N2: pitch 95. -/
theorem test_note_pitch_95 :
    see (·.trace) (step (fetching [0xDF, 0x01, 0xFF] (Part.fresh 0))) =
      some [.setTone .ch0 13, .setVolume .ch0 14] := by decide

/-- N4: the tie suffix is consumed. -/
theorem test_note_tied :
    (part0 (step (fetching [0x80, 0x02, 0xE8] (Part.fresh 0)))).map
      (fun p => (p.isTied, p.cursor, p.baseTonePeriod)) = some (true, 3, 3200) := by decide

/-- The patch table of 95_test_vectors.md section 2.1 behind a two-byte instruction. -/
def patchSong (n : Byte) : List Byte :=
  [0xE0, n, 0x01, 0x00, 0x64, 0x14, 0xB4, 0x01, 0x1E, 0x02, 0xFF, 0xFF, 0, 0, 0, 0xFF, 0xFF]

/-- A state about to run SET_PATCH n with the table at 2. -/
def patching (n : Byte) : State :=
  { fetching (patchSong n) (Part.fresh 0) with patchTableAddress := 2 }

/-- C19, E9: patch 1 is loaded, `current` and `phase` are left. -/
theorem test_setPatch_1 :
    (part0 (step (patching 1))).map (·.env) = some ⟨0, .release, 0, 100, 20, 180, 1, 30⟩ := by
  decide

/-- E12: 0xFF never matches. -/
theorem test_setPatch_FF : (part0 (step (patching 0xFF))).map (·.env) = some Envelope.fresh := by
  decide

/-- C2: SET_VOLUME clamps. -/
theorem test_setVolume_FF :
    (part0 (step (fetching [0xE1, 0xFF] { Part.fresh 0 with channelVolume := 3 }))).map
      (·.channelVolume) = some 15 := by decide

/-- C1: the cursor ends past the operand. -/
theorem test_setVolume_0C :
    (part0 (step (fetching [0xE1, 0x0C] (Part.fresh 0)))).map
      (fun p => (p.channelVolume, p.cursor)) = some (12, 2) := by decide

/-- S1: REPEAT_START. -/
theorem test_repeatStart :
    (part0 (step (fetching [0xE2, 0x02] (Part.fresh 0)))).map (·.rs) =
      some [⟨2, false, 0, 2⟩] := by decide

/-- S10: a push on a full stack is dropped. -/
theorem test_repeatStart_full :
    (part0 (step (fetching [0xE2, 0x05]
      { Part.fresh 0 with rs := List.replicate 8 ⟨9, false, 0, 1⟩ }))).map
      (fun p => (p.rs, p.cursor)) = some (List.replicate 8 ⟨9, false, 0, 1⟩, 2) := by decide

/-- S4: REPEAT_BREAK on the last pass with a known end. -/
theorem test_repeatBreak_taken :
    (part0 (step (fetching [0xE3]
      { Part.fresh 0 with rs := [⟨0x42, true, 0x50, 1⟩] }))).map
      (fun p => (p.rs, p.cursor)) = some ([], 0x50) := by decide

/-- S5: no break on a first pass. -/
theorem test_repeatBreak_first_pass :
    (part0 (step (fetching [0xE3]
      { Part.fresh 0 with rs := [⟨0x42, false, 0, 1⟩] }))).map
      (fun p => (p.rs, p.cursor)) = some ([⟨0x42, false, 0, 1⟩], 1) := by decide

/-- S2: REPEAT_END with a pass left. -/
theorem test_repeatEnd_again :
    (part0 (step (fetching [0xE4] { Part.fresh 0 with rs := [⟨0x42, false, 0, 2⟩] }))).map
      (fun p => (p.rs, p.cursor, p.infiniteLoopCount)) =
      some ([⟨0x42, true, 1, 1⟩], 0x42, 0) := by decide

/-- S11: the count of infinite passes saturates. -/
theorem test_repeatEnd_saturates :
    (part0 (step (fetching [0xE4]
      { Part.fresh 0 with rs := [⟨0x42, false, 0, 0⟩], infiniteLoopCount := 65535 }))).map
      (fun p => (p.cursor, p.infiniteLoopCount)) = some (0x42, 65535) := by decide

/-- C9: SET_NOISE passes its byte unchanged. -/
theorem test_setNoise_FF :
    see (fun t => (t.trace, t.sink.noise)) (step (fetching [0xE5, 0xFF] (Part.fresh 0))) =
      some ([.setNoise 255], 255) := by decide

/-- C4, C5: VOLUME_UP. -/
theorem test_volumeUp :
    (part0 (step (fetching [0xE6] (Part.fresh 0)))).map (·.channelVolume) = some 15 ∧
      (part0 (step (fetching [0xE6] { Part.fresh 0 with channelVolume := 3 }))).map
        (·.channelVolume) = some 4 := by decide

/-- C6, C7: VOLUME_DOWN. -/
theorem test_volumeDown :
    (part0 (step (fetching [0xE7] { Part.fresh 0 with channelVolume := 0 }))).map
        (·.channelVolume) = some 0 ∧
      (part0 (step (fetching [0xE7] (Part.fresh 0)))).map (·.channelVolume) = some 14 := by decide

/-- C12: SET_DETUNE -16. -/
theorem test_setDetune :
    (part0 (step (fetching [0xE9, 0xF0, 0xFF] (Part.fresh 0)))).map
      (fun p => (p.detune.toInt, p.cursor)) = some (-16, 3) := by decide

/-- C15: SET_LFO. -/
theorem test_setLfo :
    (part0 (step (fetching [0xEA, 0x02, 0x01, 0x04, 0x0A, 0x00] (Part.fresh 0)))).map (·.lfo) =
      some ⟨true, 2, 1, 4, 10, 2, 2, 10, 0⟩ := by decide

/-- C17: LFO_ENABLE 0 disables and resets the running state. -/
theorem test_lfoEnable_0 :
    (part0 (step (fetching [0xEB, 0x00]
      { Part.fresh 0 with lfo := ⟨true, 2, 1, 4, 10, 1, 1, 10, 10⟩ }))).map (·.lfo) =
      some ⟨false, 2, 1, 4, 10, 2, 2, 10, 0⟩ := by decide

/-- C10: SET_MIX 3. -/
theorem test_setMix_3 :
    see (·.trace) (step (fetching [0xEC, 0x03] (Part.fresh 0))) = some [.setMode .ch0 .toneNoise] := by
  decide

/-- C11: SET_MIX 4 selects no output. -/
theorem test_setMix_4 :
    see (·.trace) (step (fetching [0xEC, 0x04] (Part.fresh 0))) = some [.setMode .ch0 .none] := by
  decide

/-- C22: 0xE8 in opcode position is TERM. -/
theorem test_term_E8 :
    see (fun t => (t.trace, t.slots.ch0.map (·.isEnded), t.activity))
      (step (fetching [0xE8] (Part.fresh 0))) =
      some ([.setVolume .ch0 0], some true, .returned .tick .ch0 false) := by decide

/-! ### The other steps (95_test_vectors.md sections 1, 2.1, 2.2, 2.4, 2.7, 2.9) -/

/-- N9: the peek past the blob faults. -/
theorem test_note_peek_faults :
    see (fun t => (t.faulted, t.results, t.trace)) (step (fetching [0x80, 0x05] (Part.fresh 0))) =
      some (true, [.faulted ⟨.readOutOfRange, 2, some .ch0⟩], []) := by decide

/-- K3: a counter of 0 wraps to 255. -/
theorem test_continuing_tick_wraps :
    see (fun t => (t.slots.ch0.map (·.remainingTicks), t.trace))
      (step (at_ [0xFF] { Part.fresh 0 with
        remainingTicks := 0, env := { Envelope.fresh with current := 255, phase := .decay } }
        (.visiting .tick .ch0))) = some (some 255, [.setVolume .ch0 14]) := by decide

/-- E3: a sum of exactly 255 is no overflow; 355 is. -/
theorem test_attack_overflow :
    (Envelope.update ⟨155, .attack, 155, 100, 0, 0, 0, 0⟩) =
        ⟨255, .attack, 155, 100, 0, 0, 0, 0⟩ ∧
      (Envelope.update ⟨255, .attack, 155, 100, 0, 0, 0, 0⟩) =
        ⟨255, .decay, 155, 100, 0, 0, 0, 0⟩ := by decide

/-- L8b, its second call: the effect wraps and the sign flips. -/
theorem test_lfo_wraps :
    ((Lfo.update ⟨true, 1, 1, 4, 20000, 1, 1, 20000, 20000⟩).1.effect.toInt,
      (Lfo.update ⟨true, 1, 1, 4, 20000, 1, 1, 20000, 20000⟩).1.currentDisplacement.toInt) =
      (-25536, -20000) := by decide

/-- T8, T9: the tone period at octave 1. -/
theorem test_toneOut :
    Part.toneOut { Part.fresh 0 with
        baseTonePeriod := 3200, octave := 1, lfo := { Lfo.fresh with effect := 5 } } = 1602 ∧
      Part.toneOut { Part.fresh 0 with
        baseTonePeriod := 2851, octave := 1, lfo := { Lfo.fresh with effect := -5 } } = 1423 := by
  decide

/-- V6: 170 times 12. -/
theorem test_volOut :
    Part.volOut { Part.fresh 0 with
      channelVolume := 12, env := { Envelope.fresh with current := 170 } } = 7 := by decide

/-- P1 and F4, F5: the converter after LOAD. -/
theorem test_spt_init :
    SamplesPerTick.init 44100 = ⟨735, 4410, -1584, 735⟩ ∧
      SamplesPerTick.init 60 = ⟨1, 6, -5988, 1⟩ ∧
      (SamplesPerTick.init 42949672).quotient = 716544 := by decide

/-- Section 1.1: the header of the source's worked example. -/
theorem test_header :
    headerParse (blob [0x41, 0x42, 0x43, 0, 0, 0x12, 0x34, 0x56, 0x78, 0x9A, 0xBC, 0, 0]) =
      .done ⟨0x3415, ⟨some 0x7859, some 0xBC9D, none⟩⟩ := by decide

/-- F7: a title with no terminator. -/
theorem test_header_faults : headerParse (blob [0x41, 0x42, 0x43]) = .out 3 := by decide

/-- Each row of spec/opcode_table.json, its operands zero, runs as the first instruction from
`State.reset` (log 2). -/
theorem test_every_row_runs_first :
    [(8, 0x00), (16, 0x80), (16, 0xE0), (16, 0xE1), (16, 0xE2), (8, 0xE3), (8, 0xE4), (16, 0xE5),
      (8, 0xE6), (8, 0xE7), (24, 0xE9), (48, 0xEA), (16, 0xEB), (16, 0xEC), (8, 0xE8)].all
      (fun r => (see (·.loaded) (step (State.reset.withFetchWord r.1 r.2))).isSome) = true := by
  decide

/-! ### Witnesses: the hypotheses of the obligations are met

One theorem for each obligation that has hypotheses, one conjunct for each clause. -/

/-- The state the next step leaves, where there is one. -/
def next (s : State) : State :=
  match step s with
  | .next t => t
  | _ => s

theorem witness_DecodeUndoesEncode :
    ((Instr.note 0x5F 0xFF false).wellFormed = true ∧
      ∀ p d, Instr.note 0x5F 0xFF false = .note p d false →
        ([0xE7] : List Byte).head? ≠ some 0xE8) ∧
    (Instr.note 0 0xE8 true).wellFormed = true ∧ (Instr.term 0xE8).wellFormed = true := by
  refine ⟨⟨by decide, fun _ _ _ => by decide⟩, by decide, by decide⟩

theorem witness_EncodeUndoesDecode :
    decode [0xDF, 0x05, 0xE8, 0x7F] = .ok (.note 0x5F 5 true, [0x7F]) := by decide

theorem witness_OpcodeByteSelectsTheInstruction : 5 ≤ ([0, 0, 0, 0, 0] : List Byte).length := by
  decide

theorem witness_OperandsAreAssembledFromTheirBytes :
    (0x7F : Byte).toNat ≤ 0x7F ∧ 0x80 ≤ (0x80 : Byte).toNat ∧ (0x80 : Byte).toNat ≤ 0xDF ∧
      0x80 ≤ (0xDF : Byte).toNat ∧ (0xDF : Byte).toNat ≤ 0xDF := by decide

/-- A Part at the last byte of a two-byte blob. -/
def atLast : State := fetching [0xFF, 0x05] past

theorem witness_StepRunsTheDecodedInstruction :
    atLast.Consuming .tick .ch0 past ∧ atLast.params.InBlob past.cursor ∧
      decode [atLast.params.songByte past.cursor, atLast.params.songByte (past.cursor + 1),
        atLast.params.songByte (past.cursor + 2), atLast.params.songByte (past.cursor + 3),
        atLast.params.songByte (past.cursor + 4), atLast.params.songByte (past.cursor + 5)] =
        .ok (.rest 5, [0, 0, 0, 0, 0]) := by
  refine ⟨⟨rfl, rfl⟩, ?_, by decide⟩
  unfold Params.InBlob
  decide

theorem witness_ModelFaultEntry :
    (fetching [0xFF] past).Consuming .tick .ch0 past ∧
      ¬ (fetching [0xFF] past).params.InBlob past.cursor := by
  refine ⟨⟨rfl, rfl⟩, ?_⟩
  unfold Params.InBlob
  decide

theorem witness_PlacedInstructionRunsNext :
    State.reset.params.song.wf = true ∧ decodeTableWord 8 0xFF = some (.term 0xFF) := by decide

/-- The whole address space in the blob, every byte zero. -/
def whole : Params := { Params.unset with blobLen := 65536 }

theorem witness_ReadsAreRangeCheckedAndLittleEndian :
    ((blob [1, 2]).InBlob 0 ∧ (blob [1, 2]).InBlob (0 + 1)) ∧
    ((blob [1, 2]).InBlob 1 ∧ ¬ (blob [1, 2]).InBlob (1 + 1)) ∧
    ¬ (blob [1, 2]).InBlob 2 ∧ (whole.InBlob 0xFFFF ∧ whole.InBlob (0xFFFF + 1)) := by
  unfold Params.InBlob
  decide

theorem witness_NoStepWritesSongMemory : step atLast = .next (next atLast) := by rfl

/-- `atLast`'s parameters with other bytes past the blob. -/
def otherPast : Params :=
  { atLast.params with song := Memory.write atLast.params.song 2 0x77 }

theorem witness_BytesOutsideTheBlobNeverMatter :
    atLast.params.AgreeInBlob otherPast ∧ otherPast.songByte 2 ≠ atLast.params.songByte 2 ∧
      step atLast = .next (next atLast) := by
  refine ⟨⟨rfl, rfl, fun a ha => ?_⟩, by decide, rfl⟩
  have h : a.toNat < 2 := ha
  have hne : a.toNat ≠ 2 := by omega
  exact (Memory.read_write_other _ hne _).symm

theorem witness_ExecFrame :
    atLast.Consuming .tick .ch0 past ∧ ∀ i ∈ [.note 26 3 false, .rest 5, .term 0xFF],
      exec i atLast = .next (match exec i atLast with
        | .next t => t
        | _ => atLast) := by
  refine ⟨⟨rfl, rfl⟩, fun i hi => ?_⟩
  simp only [List.mem_cons, List.not_mem_nil, or_false] at hi
  rcases hi with rfl | rfl | rfl <;> rfl

theorem witness_RestResult : atLast.Consuming .tick .ch0 past := ⟨rfl, rfl⟩

/-- A NOTE's bytes up to the peeked one, the last of the blob. -/
def noting : State := fetching [0x9A, 0x03, 0x01] past

theorem witness_NoteResult :
    noting.Consuming .tick .ch0 past ∧ noting.params.InBlob past.cursor ∧
      noting.params.InBlob (past.cursor + 1) := by
  refine ⟨⟨rfl, rfl⟩, ?_, ?_⟩ <;> (unfold Params.InBlob; decide)

theorem witness_NoteFaultsWhereItReads :
    ((fetching [0x9A] past).Consuming .tick .ch0 past ∧
      ¬ (fetching [0x9A] past).params.InBlob past.cursor) ∧
    (fetching [0x9A, 0x03] past).Consuming .tick .ch0 past ∧
      (fetching [0x9A, 0x03] past).params.InBlob past.cursor ∧
      ¬ (fetching [0x9A, 0x03] past).params.InBlob (past.cursor + 1) := by
  refine ⟨⟨⟨rfl, rfl⟩, ?_⟩, ⟨rfl, rfl⟩, ?_, ?_⟩ <;> (unfold Params.InBlob; decide)

/-- The state of `patching` past its opcode byte. -/
def patchingPast (n : Byte) (len : Nat) : State :=
  { fetching (patchSong n) past with
    patchTableAddress := 2, params := { blob (patchSong n) with blobLen := len } }

theorem witness_SetPatchLoadsTheFirstMatch :
    let s := patchingPast 2 17
    s.Consuming .tick .ch0 past ∧ s.params.InBlob past.cursor ∧ (2 : Byte) ≠ 0xFF ∧
      (∀ j < 1, s.params.InBlob (s.patchTableAddress + BitVec.ofNat 16 (7 * j)) ∧
        s.params.songByte (s.patchTableAddress + BitVec.ofNat 16 (7 * j)) ≠ 0xFF ∧
        s.params.songByte (s.patchTableAddress + BitVec.ofNat 16 (7 * j)) ≠ 2) ∧
      (9 : Word) = s.patchTableAddress + BitVec.ofNat 16 (7 * 1) ∧
      (∀ m ≤ 6, s.params.InBlob (9 + BitVec.ofNat 16 m)) ∧ s.params.songByte 9 = 2 := by
  refine ⟨⟨rfl, rfl⟩, ?_, by decide, ?_, by decide, ?_, by decide⟩ <;>
    (unfold Params.InBlob; decide)

theorem witness_SetPatchMissLeavesTheEnvelope :
    let s := patchingPast 0xFF 17
    s.Consuming .tick .ch0 past ∧ s.params.InBlob past.cursor ∧
      (∀ j < 2, s.params.InBlob (s.patchTableAddress + BitVec.ofNat 16 (7 * j)) ∧
        s.params.songByte (s.patchTableAddress + BitVec.ofNat 16 (7 * j)) ≠ 0xFF ∧
        s.params.songByte (s.patchTableAddress + BitVec.ofNat 16 (7 * j)) ≠ 0xFF) ∧
      s.params.InBlob (s.patchTableAddress + BitVec.ofNat 16 (7 * 2)) ∧
      s.params.songByte (s.patchTableAddress + BitVec.ofNat 16 (7 * 2)) = 0xFF := by
  refine ⟨⟨rfl, rfl⟩, ?_, ?_, ?_, by decide⟩ <;> (unfold Params.InBlob; decide)

/-- Its operand outside; its first record's number outside; byte 1 and byte 6 of a matching record
outside. -/
theorem witness_SetPatchFaultsWhereItReads :
    ((patchingPast 1 1).Consuming .tick .ch0 past ∧
      ¬ (patchingPast 1 1).params.InBlob past.cursor) ∧
    ((patchingPast 1 2).params.InBlob past.cursor ∧ ¬ (patchingPast 1 2).params.InBlob 2) ∧
    ((patchingPast 1 3).params.InBlob 2 ∧ (patchingPast 1 3).params.songByte 2 = 1 ∧
      (∀ m' < 1, (patchingPast 1 3).params.InBlob (2 + BitVec.ofNat 16 m')) ∧
      ¬ (patchingPast 1 3).params.InBlob (2 + BitVec.ofNat 16 1)) ∧
    (patchingPast 1 8).params.InBlob 2 ∧ (patchingPast 1 8).params.songByte 2 = 1 ∧
      (∀ m' < 6, (patchingPast 1 8).params.InBlob (2 + BitVec.ofNat 16 m')) ∧
      ¬ (patchingPast 1 8).params.InBlob (2 + BitVec.ofNat 16 6) := by
  refine ⟨⟨⟨rfl, rfl⟩, ?_⟩, ?_⟩ <;> (unfold Params.InBlob; decide)

/-- A consume loop over the whole address space, every byte zero. -/
def inWhole : State := { fetching [] past with params := whole }

theorem witness_SetPatchHangsExactlyWhereTheScanNeverEnds :
    (inWhole.Consuming .tick .ch0 past ∧ inWhole.params.InBlob past.cursor ∧
      ∀ a : Word, inWhole.params.InBlob a ∧ inWhole.params.songByte a ≠ 0xFF ∧
        inWhole.params.songByte a ≠ 1) ∧
    ∃ a : Word, ¬ inWhole.params.InBlob a ∨ inWhole.params.songByte a = 0xFF ∨
      inWhole.params.songByte a = 0 := by
  refine ⟨⟨⟨rfl, rfl⟩, ?_, fun a => ⟨a.isLt, ?_, ?_⟩⟩, 0, ?_⟩
  · unfold Params.InBlob
    decide
  · exact fun h => absurd (show (0 : Byte) = 0xFF from h) (by decide)
  · exact fun h => absurd (show (0 : Byte) = 1 from h) (by decide)
  · exact .inr (.inr rfl)

/-- For the instructions with one operand byte, two clauses: the operand is the last byte of the blob,
or the first outside it. -/
theorem witness_byte_operands :
    (atLast.Consuming .tick .ch0 past ∧ atLast.params.InBlob past.cursor) ∧
      (fetching [0xE1] past).Consuming .tick .ch0 past ∧
      ¬ (fetching [0xE1] past).params.InBlob past.cursor := by
  refine ⟨⟨⟨rfl, rfl⟩, ?_⟩, ⟨rfl, rfl⟩, ?_⟩ <;> (unfold Params.InBlob; decide)

/-- The clause about the step: the instruction's bytes end the blob. -/
theorem witness_SetVolumeResult :
    (fetching [0xE1, 0x10] (Part.fresh 0)).Consuming .tick .ch0 (Part.fresh 0) ∧
      (fetching [0xE1, 0x10] (Part.fresh 0)).BytesAt (Part.fresh 0).cursor [0xE1, 0x10] := by
  refine ⟨⟨rfl, rfl⟩, ?_⟩
  simp only [State.BytesAt]
  decide

theorem witness_SetNoiseAndSetMixResult :
    (fetching [0xE5, 0xFF] (Part.fresh 0)).BytesAt (Part.fresh 0).cursor [0xE5, 0xFF] ∧
      (fetching [0xEC, 0x04] (Part.fresh 0)).BytesAt (Part.fresh 0).cursor [0xEC, 0x04] := by
  simp only [State.BytesAt]
  decide

theorem witness_LfoEnableResult :
    (fetching [0xEB, 0x80] (Part.fresh 0)).BytesAt (Part.fresh 0).cursor [0xEB, 0x80] := by
  simp only [State.BytesAt]
  decide

theorem witness_VolumeUpAndDownResult :
    (fetching [0xE6] (Part.fresh 0)).Consuming .tick .ch0 (Part.fresh 0) ∧
      (fetching [0xE6] (Part.fresh 0)).BytesAt (Part.fresh 0).cursor [0xE6] ∧
      (fetching [0xE7] { Part.fresh 0 with channelVolume := 0 }).BytesAt 0 [0xE7] := by
  refine ⟨⟨rfl, rfl⟩, ?_⟩
  simp only [State.BytesAt]
  decide

theorem witness_SetDetuneResult :
    (noting.Consuming .tick .ch0 past ∧ noting.params.InBlob past.cursor ∧
      noting.params.InBlob (past.cursor + 1)) ∧
    (¬ (fetching [0xE9] past).params.InBlob past.cursor) ∧
    (fetching [0xE9, 0] past).Consuming .tick .ch0 past ∧
      (fetching [0xE9, 0] past).params.InBlob past.cursor ∧
      ¬ (fetching [0xE9, 0] past).params.InBlob (past.cursor + 1) := by
  refine ⟨⟨⟨rfl, rfl⟩, ?_, ?_⟩, ?_, ⟨rfl, rfl⟩, ?_, ?_⟩ <;> (unfold Params.InBlob; decide)

theorem witness_SetDetuneResult_step :
    (fetching [0xE9, 0x00, 0x80] (Part.fresh 0)).BytesAt (Part.fresh 0).cursor
      [0xE9, 0x00, 0x80] := by
  simp only [State.BytesAt]
  decide

theorem witness_SetLfoResult :
    ((fetching [0xEA, 2, 1, 4, 10, 0] past).Consuming .tick .ch0 past ∧
      ∀ m ≤ 4, (fetching [0xEA, 2, 1, 4, 10, 0] past).params.InBlob
        (past.cursor + BitVec.ofNat 16 m)) ∧
    (¬ (fetching [0xEA] past).params.InBlob (past.cursor + BitVec.ofNat 16 0)) ∧
    (fetching [0xEA, 2, 1, 4, 10] past).Consuming .tick .ch0 past ∧
      (∀ m' < 4, (fetching [0xEA, 2, 1, 4, 10] past).params.InBlob
        (past.cursor + BitVec.ofNat 16 m')) ∧
      ¬ (fetching [0xEA, 2, 1, 4, 10] past).params.InBlob (past.cursor + BitVec.ofNat 16 4) := by
  refine ⟨⟨⟨rfl, rfl⟩, ?_⟩, ?_, ⟨rfl, rfl⟩, ?_, ?_⟩ <;> (unfold Params.InBlob; decide)

theorem witness_SetLfoResult_step :
    (fetching [0xEA, 0, 0, 0, 0x00, 0x80] (Part.fresh 0)).BytesAt (Part.fresh 0).cursor
      [0xEA, 0, 0, 0, (0x8000 : Word).setWidth 8, ((0x8000 : Word) >>> 8).setWidth 8] := by
  simp only [State.BytesAt]
  decide

/-- A Part past an opcode byte whose repeat stack holds this many frames. -/
def nested (n : Nat) : Part := { past with rs := List.replicate n ⟨9, true, 12, 1⟩ }

theorem witness_RepeatStartResult :
    ((fetching [0xE2, 2] (nested 7)).Consuming .tick .ch0 (nested 7) ∧
      (fetching [0xE2, 2] (nested 7)).params.InBlob (nested 7).cursor ∧
      (nested 7).rs.length < 8) ∧
    ((fetching [0xE2, 2] (nested 8)).params.InBlob (nested 8).cursor ∧
      8 ≤ (nested 8).rs.length) ∧
    ¬ (fetching [0xE2] (nested 8)).params.InBlob (nested 8).cursor := by
  refine ⟨⟨⟨rfl, rfl⟩, ?_, by decide⟩, ⟨?_, by decide⟩, ?_⟩ <;> (unfold Params.InBlob; decide)

theorem witness_RepeatStartResult_step :
    (fetching [0xE2, 0x00] (Part.fresh 0)).BytesAt (Part.fresh 0).cursor [0xE2, 0x00] := by
  simp only [State.BytesAt]
  decide

/-- A Part past an opcode byte with this one repeat frame. -/
def looping (endValid : Bool) (count : Byte) : Part := { past with rs := [⟨9, endValid, 12, count⟩] }

theorem witness_RepeatBreakResult :
    (fetching [0xE3] (looping true 1)).Consuming .tick .ch0 (looping true 1) ∧
    (looping true 1).rs = ⟨9, true, 12, 1⟩ :: [] ∧
    (∀ f, (looping false 1).rs.head? = some f → f.count ≠ 1 ∨ f.endValid = false) ∧
    (∀ f, (looping true 2).rs.head? = some f → f.count ≠ 1 ∨ f.endValid = false) ∧
    (∀ f, past.rs.head? = some f → f.count ≠ 1 ∨ f.endValid = false) := by
  refine ⟨⟨rfl, rfl⟩, rfl, fun f h => ?_, fun f h => ?_, fun f h => ?_⟩
  · cases h
    decide
  · cases h
    decide
  · cases h

theorem witness_RepeatEndResult :
    (fetching [0xE4] past).Consuming .tick .ch0 past ∧ past.rs = [] ∧
    (looping false 0).rs = ⟨9, false, 12, 0⟩ :: [] ∧
    (looping false 1).rs = ⟨9, false, 12, 1⟩ :: [] ∧
    (looping false 2).rs = ⟨9, false, 12, 2⟩ :: [] ∧ 2 ≤ (2 : Byte).toNat :=
  ⟨⟨rfl, rfl⟩, rfl, rfl, rfl, rfl, by decide⟩

theorem witness_TermResult :
    atLast.Consuming .tick .ch0 past ∧ ((0xED : Byte) = 0xE8 ∨ 0xED ≤ (0xED : Byte).toNat) :=
  ⟨⟨rfl, rfl⟩, .inr (by decide)⟩

/-- The two Decay clauses meet where the level reached is the sustain level itself. -/
theorem witness_EnvelopeOperations :
    (⟨120, .decay, 0, 0, 20, 101, 0, 0⟩ : Envelope).current.toNat - 20 < 101 ∧
    100 ≤ (⟨120, .decay, 0, 0, 20, 100, 0, 0⟩ : Envelope).current.toNat - 20 ∧
    (⟨10, .sustain, 0, 0, 0, 0, 11, 0⟩ : Envelope).phase = .sustain ∧
    (⟨10, .release, 0, 0, 0, 0, 0, 255⟩ : Envelope).phase = .release := by decide

theorem witness_EnvelopeAttackStep :
    (⟨156, .attack, 0, 100, 0, 0, 0, 0⟩ : Envelope).phase = .attack ∧
      255 < (156 : Byte).toNat + (100 : Byte).toNat ∧
      (155 : Byte).toNat + (100 : Byte).toNat ≤ 255 := by decide

theorem witness_LfoUpdateResult :
    Lfo.fresh.enabled = false ∧ (2 : Nat) ≤ (2 : Byte).toNat ∧ (1 : Byte).toNat ≤ 1 ∧
      (⟨true, 2, 1, 4, 10, 0, 0, 10, 0⟩ : Lfo).waitCount.toNat ≤ 1 ∧
      (⟨true, 2, 1, 4, 10, 0, 0, 10, 0⟩ : Lfo).enabled = true ∧
      (⟨true, 2, 1, 4, 10, 1, 2, 10, 0⟩ : Lfo).depthCount.toNat ≥ 2 := by decide

theorem witness_LfoFiringSchedule : (⟨true, 2, 1, 4, 10, 2, 2, 10, 0⟩ : Lfo).enabled = true := rfl

theorem witness_LfoTriangle :
    2 ≤ (⟨true, 1, 1, 2, 10, 1, 1, 10, 0⟩ : Lfo).depth.toNat ∧
      (⟨true, 1, 1, 1, 10, 1, 0, 10, 0⟩ : Lfo).depth.toNat ≤ 1 := by decide

theorem witness_VolOutIsTheScaledProduct : (Part.fresh 0).channelVolume ≤ 15 := by decide

/-- A Part being visited by a host TICK. -/
def visiting (p : Part) : State := at_ [0xFF] p (.visiting .tick .ch0)

/-- A Part whose LFO fires at its next update, with this duration left. -/
def firing (ticks : Byte) : Part :=
  { Part.fresh 0 with remainingTicks := ticks, lfo := ⟨true, 1, 1, 4, 10, 1, 2, 10, 0⟩ }

theorem witness_PartTickResult :
    ((visiting (firing 2)).activity = .visiting .tick .ch0 ∧
      (visiting (firing 2)).slots.get .ch0 = some (firing 2) ∧ (firing 2).isEnded = false ∧
      (firing 2).remainingTicks ≠ 1 ∧ (firing 2).lfo.update.2 = true) ∧
    ((Part.fresh 0).lfo.update.2 = false ∧
      ({ Part.fresh 0 with remainingTicks := 0 } : Part).remainingTicks ≠ 1) ∧
    (firing 1).remainingTicks = 1 ∧ (firing 1).isEnded = false ∧
    ({ Part.fresh 0 with isEnded := true } : Part).isEnded = true := by
  refine ⟨⟨rfl, rfl, rfl, ?_, ?_⟩, ⟨rfl, ?_⟩, rfl, rfl, rfl⟩ <;> decide

/-- A host TICK about to look at channel 0 after `k` ticks, each on what the last one left. -/
def ticked (p : Part) : Nat → State
  | 0 => visiting p
  | k + 1 => { next (ticked p k) with activity := .visiting .tick .ch0 }

/-- The longest duration, 256 ticks, and the shortest, 1. -/
theorem witness_DurationIsCountedExactly :
    (∀ x ∈ [(256, firing 0), (1, firing 1)],
      x.1 = (if x.2.remainingTicks = 0 then 256 else x.2.remainingTicks.toNat) ∧
        x.2.isEnded = false) ∧
    ∀ p, (ticked p 0).slots.get .ch0 = some p ∧
      (∀ k, (ticked p k).activity = .visiting .tick .ch0 ∧
        step (ticked p k) = .next (next (ticked p k))) ∧
      (∀ k, (ticked p (k + 1)).slots.get .ch0 = (next (ticked p k)).slots.get .ch0) := by
  refine ⟨by decide, fun p => ⟨rfl, fun k => ?_, fun _ => rfl⟩⟩
  have ha : (ticked p k).activity = .visiting .tick .ch0 := by cases k <;> rfl
  have hs : step (ticked p k) = .next ((ticked p k).visit .tick .ch0) := by simp only [step, ha]
  exact ⟨ha, by simp only [next, hs]⟩

/-- A session whose slots are all absent, at this point of an operation. -/
def silent (a : Activity) : State :=
  { at_ [0xFF] (Part.fresh 0) a with slots := ⟨none, none, none⟩ }

theorem witness_CtxTickLoop :
    ((silent (.visiting .tick .ch1)).slots.get .ch1 = none ∧ Channel.ch1 ≠ .ch2) ∧
    ((at_ [0xFF] past (.returned .tick .ch0 false)).activity = .returned .tick .ch0 false ∧
      Channel.ch0 ≠ .ch2) ∧
    ((silent (.visiting .tick .ch2)).activity = .visiting .tick .ch2 ∧
      (silent (.visiting .tick .ch2)).slots.ch2 = none) ∧
    (silent (.returned .tick .ch2 true)).activity = .returned .tick .ch2 true ∧
    (silent (.returned .tick .ch2 false)).activity = .returned .tick .ch2 false := by
  refine ⟨⟨rfl, ?_⟩, ⟨rfl, ?_⟩, ⟨rfl, rfl⟩, rfl, rfl⟩ <;> decide

/-- An idle session with one Part and these requests. -/
def asked (rs : List Request) : State := { at_ [0xFF] (Part.fresh 0) .idle with inbox := rs }

theorem witness_EndSilencesAndRemovesEveryPart :
    (asked [.finish]).activity = .idle ∧ (asked [.finish]).inbox = .finish :: [] ∧
      (asked [.finish]).loaded = true ∧ (asked [.finish]).faulted = false := ⟨rfl, rfl, rfl, rfl⟩

theorem witness_IsPlayingReportsPresence :
    (asked [.isPlaying]).activity = .idle ∧ (asked [.isPlaying]).inbox = .isPlaying :: [] ∧
      (asked [.isPlaying]).loaded = true ∧ (asked [.isPlaying]).faulted = false :=
  ⟨rfl, rfl, rfl, rfl⟩

/-- A session whose Part has counted this many infinite passes, under this limit. -/
def counted (passes : Word) (limit : Option Nat) : State :=
  { at_ [0xFF] { Part.fresh 0 with infiniteLoopCount := passes } .idle with maxLoopCount := limit }

theorem witness_LoopPolicyEndsPlayback :
    (counted 9 none).maxLoopCount = none ∧ (counted 0 (some 0)).maxLoopCount = some 0 ∧
    (∃ ch p, (counted 2 (some 2)).slots.get ch = some p ∧ 2 ≤ p.infiniteLoopCount.toNat) ∧
    (∀ ch p, (counted 1 (some 2)).slots.get ch = some p → p.infiniteLoopCount.toNat < 2) := by
  refine ⟨rfl, rfl, ⟨.ch0, _, rfl, by decide⟩, fun ch p h => ?_⟩
  cases ch <;> cases h
  decide

/-- A PRODUCE of 2 samples in progress, `k` written, with this budget left. -/
def producing (k : Nat) (left : Word32) : State :=
  { at_ [0xFF] (Part.fresh 0) (.producing 2 k) with spt := ⟨735, 4410, 0xFFFFF9D0, left⟩ }

theorem witness_ProduceLoopResult :
    ((producing 2 1).activity = .producing 2 2 ∧ (2 ≤ 2 ∨ (producing 2 1).slots = ⟨none, none, none⟩)) ∧
    (silent (.producing 2 0)).slots = ⟨none, none, none⟩ ∧
    ((1 : Nat) < 2 ∧ (producing 1 2).slots ≠ ⟨none, none, none⟩ ∧
      (producing 1 2).spt.remaining ≠ 1) ∧
    (producing 1 1).spt.remaining = 1 ∧
    (silent (.visiting (.produce 2 1) .ch2)).slots.ch2 = none ∧
    (at_ [0xFF] past (.returned (.produce 2 1) .ch2 true)).slots ≠ ⟨none, none, none⟩ ∧
    (silent (.returned (.produce 2 1) .ch2 false)).slots.set .ch2 none = ⟨none, none, none⟩ := by
  refine ⟨⟨rfl, .inl ?_⟩, rfl, ⟨?_, ?_, ?_⟩, rfl, rfl, ?_, rfl⟩ <;> decide

theorem witness_SptNextResult :
    (⟨735, 4410, -4410, 735⟩ : SamplesPerTick).Legal ∧
      (⟨735, 4410, -4411, 735⟩ : SamplesPerTick).Legal ∧
      0 ≤ (-4410 : Word32).toInt + ((4410 : Word32).toNat : Int) ∧
      (-4411 : Word32).toInt + ((4410 : Word32).toNat : Int) < 0 := by
  unfold SamplesPerTick.Legal
  decide

theorem witness_SampleTotalsNeverDrift :
    rateAccepted 60 = true ∧ rateAccepted 42949672 = true := by decide

/-- The song of 95_test_vectors.md section 1.2, with a LOAD as the next request. -/
def loading (sampleRate : Word32) : State :=
  { State.powerOn (blob [0x53, 0, 0, 0x0A, 0, 0x0B, 0, 0, 0, 0, 0, 0xFF, 0xFF]) with
    inbox := [.load sampleRate none] }

theorem witness_LoadResult :
    (loading 60).activity = .idle ∧ (loading 60).inbox = .load 60 none :: [] ∧
      60 ≤ (60 : Word32).toNat ∧ (60 : Word32).toNat ≤ 42949672 ∧
      (∀ a : Word, a.toNat < (1 : Word).toNat →
        (loading 60).params.InBlob a ∧ (loading 60).params.songByte a ≠ 0) ∧
      (loading 60).params.InBlob 1 ∧ (loading 60).params.songByte 1 = 0 ∧
      (∀ m, 2 ≤ m → m ≤ 9 → (loading 60).params.InBlob (1 + BitVec.ofNat 16 m)) := by
  refine ⟨rfl, rfl, by decide, by decide, fun a ha => ?_, ?_, by decide, fun m h2 h9 => ?_⟩
  · have h1 : a.toNat < 1 := ha
    have h0 : a = 0 := by
      apply BitVec.eq_of_toNat_eq
      show a.toNat = 0
      omega
    subst h0
    unfold Params.InBlob
    decide
  · unfold Params.InBlob
    decide
  · unfold Params.InBlob
    show (1 + BitVec.ofNat 16 m).toNat < 13
    simp only [BitVec.ofNat_eq_ofNat, BitVec.toNat_add, BitVec.toNat_ofNat]
    omega

/-- A block about to load the title "A" (F6 of 95_test_vectors.md section 2.9) cut off at this blob
length. -/
def truncated (len : Nat) : State :=
  { State.powerOn { blob [0x41, 0, 0, 5] with blobLen := len } with inbox := [.load 44100 none] }

/-- The header byte outside the blob may be the first, one in the middle (F6) or the last. -/
theorem witness_LoadResult_fault :
    (truncated 3).activity = .idle ∧ (truncated 3).inbox = .load 44100 none :: [] ∧
    60 ≤ (44100 : Word32).toNat ∧ (44100 : Word32).toNat ≤ 42949672 ∧
    ∀ len m, (len, m) ∈ [(3, 2), (4, 3), (10, 9)] →
      (∀ a : Word, a.toNat < (1 : Word).toNat →
        (truncated len).params.InBlob a ∧ (truncated len).params.songByte a ≠ 0) ∧
      (truncated len).params.InBlob 1 ∧ (truncated len).params.songByte 1 = 0 ∧
      (∀ j, 2 ≤ j → j < m → (truncated len).params.InBlob (1 + BitVec.ofNat 16 j)) ∧
      ¬ (truncated len).params.InBlob (1 + BitVec.ofNat 16 m) := by
  refine ⟨rfl, rfl, by decide, by decide, fun len m h => ?_⟩
  have hm : m ≤ 9 ∧ 2 < len ∧ len = m + 1 := by
    simp only [List.mem_cons, Prod.mk.injEq, List.not_mem_nil, or_false] at h
    omega
  obtain ⟨h9, h2, rfl⟩ := hm
  unfold Params.InBlob
  refine ⟨fun a ha => ?_, ?_, rfl, fun j _ hj => ?_, ?_⟩
  · have h1 : a.toNat < 1 := ha
    have h0 : a = 0 := by
      apply BitVec.eq_of_toNat_eq
      show a.toNat = 0
      omega
    subst h0
    exact ⟨Nat.lt_of_le_of_lt (Nat.zero_le _) h2, (by decide : (0x41 : Byte) ≠ 0)⟩
  · exact Nat.lt_of_lt_of_le (by decide) h2
  · show (1 + BitVec.ofNat 16 j).toNat < m + 1
    simp only [BitVec.ofNat_eq_ofNat, BitVec.toNat_add, BitVec.toNat_ofNat]
    omega
  · show ¬ (1 + BitVec.ofNat 16 m).toNat < m + 1
    simp only [BitVec.ofNat_eq_ofNat, BitVec.toNat_add, BitVec.toNat_ofNat]
    omega

/-- F6: the fault's record, no event, `faulted = 1`. -/
theorem test_load_truncated_header :
    see (fun t => (t.results, t.trace, t.faulted)) (step (truncated 4)) =
      some ([.faulted ⟨.readOutOfRange, 4, none⟩], [], true) := by decide

theorem witness_TickAndProduceBegin :
    (asked [.tick]).activity = .idle ∧ (asked [.tick]).loaded = true ∧
      (asked [.tick]).faulted = false ∧ (asked [.tick]).inbox = .tick :: [] ∧
      (asked [.produce 0]).inbox = .produce 0 :: [] := ⟨rfl, rfl, rfl, rfl, rfl⟩

theorem witness_RefusedRequestsChangeNothing :
    ((loading 59).activity = .idle ∧ (loading 59).inbox = .load 59 none :: [] ∧
      ((59 : Word32).toNat < 60 ∨ 42949672 < (59 : Word32).toNat)) ∧
    ((42949673 : Word32).toNat < 60 ∨ 42949672 < (42949673 : Word32).toNat) ∧
    ({ State.reset with inbox := [.tick] } : State).loaded = false ∧
    ({ asked [.tick] with faulted := true } : State).faulted = true ∧
    (∀ sampleRate limit, Request.tick ≠ .load sampleRate limit) := by
  refine ⟨⟨rfl, rfl, .inl (by decide)⟩, .inr (by decide), rfl, rfl, ?_⟩
  intro _ _ h
  cases h

/-- `n` bytes of 1 from an address up. -/
def ones : Nat → Nat → Memory
  | _, 0 => []
  | lo, n + 1 => (lo, 1) :: ones (lo + 1) n

theorem ones_read (n : Nat) : ∀ lo a, lo ≤ a → a < lo + n → Memory.read (ones lo n) a = 1 := by
  induction n with
  | zero => intro lo a h1 h2; omega
  | succ n ih =>
    intro lo a h1 h2
    rw [ones, Memory.read]
    split
    · rfl
    · exact ih (lo + 1) a (by omega) (by omega)

/-- A block about to load a title with no terminator, of this blob length. -/
def endless (len : Nat) : State :=
  { State.powerOn ⟨ones 0 len, len, tones⟩ with inbox := [.load 44100 none] }

theorem witness_LoadOfAnEndlessTitle :
    ((endless 3).activity = .idle ∧ (endless 3).inbox = .load 44100 none :: [] ∧
      rateAccepted 44100 = true ∧
      (∀ a : Word, (endless 3).params.InBlob a → (endless 3).params.songByte a ≠ 0) ∧
      (endless 3).params.blobLen < 65536) ∧
    (∀ a : Word, (endless 65536).params.InBlob a → (endless 65536).params.songByte a ≠ 0) ∧
      65536 ≤ (endless 65536).params.blobLen := by
  have key : ∀ (len : Nat) (a : Word), (endless len).params.InBlob a →
      (endless len).params.songByte a ≠ 0 := by
    intro len a ha h
    have hr : Memory.read (ones 0 len) a.toNat = 1 :=
      ones_read len 0 a.toNat (Nat.zero_le _) (by have : a.toNat < len := ha; omega)
    exact absurd (hr.symm.trans h) (by decide)
  exact ⟨⟨rfl, rfl, by decide, key 3, by decide⟩, key 65536, Nat.le_refl _⟩

/-! The invariant holds of a session in the middle of a TICK. -/

/-- A session with one Part, visited by a host TICK, has the invariant. -/
theorem visiting_inv : (visiting (firing 2)).Inv where
  song := by decide
  blob := by decide
  parts := by
    intro ch p h
    cases ch <;> cases h
    unfold Part.Legal
    decide
  ended := by
    intro ch p h he
    cases ch <;> cases h
    cases he
  atWork := by
    intro ch h
    cases h
  converter := by
    intro _
    unfold SamplesPerTick.Legal
    decide
  budget := fun _ _ _ => by decide
  session := fun _ => rfl
  stopped := by
    intro h
    cases h

theorem witness_StepKeepsTheInvariant :
    (visiting (firing 2)).Inv ∧ step (visiting (firing 2)) = .next (next (visiting (firing 2))) :=
  ⟨visiting_inv, rfl⟩

theorem witness_PowerOnHasTheInvariant :
    (blob [0xFF]).song.wf = true ∧ 1 ≤ (blob [0xFF]).blobLen ∧ (blob [0xFF]).blobLen ≤ 65536 := by
  decide

theorem witness_InvariantStatesNeverStop : (visiting (firing 2)).Inv := visiting_inv

theorem witness_OnlyLoadMakesASlotPresent :
    step (loading 44100) = .next (next (loading 44100)) ∧
      (loading 44100).slots.get .ch0 = none ∧
      ((next (loading 44100)).slots.get .ch0).isSome = true := by
  refine ⟨rfl, rfl, ?_⟩
  decide

/-- A step that is no LOAD, with channel 0's Part present before and after it. -/
theorem witness_LoopCountNeverFalls :
    step (visiting (firing 2)) = .next (next (visiting (firing 2))) ∧
      ¬ (visiting (firing 2)).AboutToLoad ∧
      (visiting (firing 2)).slots.get .ch0 = some (firing 2) ∧
      ((next (visiting (firing 2))).slots.get .ch0).isSome = true := by
  refine ⟨rfl, ?_, rfl, by decide⟩
  rintro ⟨h, _⟩
  cases h

theorem witness_CursorMovesOnlyInTheConsumeLoop :
    (¬ (visiting (firing 2)).AboutToLoad ∧
      ((next (visiting (firing 2))).slots.get .ch0).isSome = true) ∧
      ∀ c, (visiting (firing 2)).activity ≠ .consuming c .ch0 := by
  refine ⟨⟨witness_LoopCountNeverFalls.2.1, by decide⟩, ?_⟩
  intro c h
  cases h

theorem witness_TraceOnlyGrows :
    step (visiting (firing 2)) = .next (next (visiting (firing 2))) ∧
      ¬ (visiting (firing 2)).AboutToLoad := ⟨rfl, witness_LoopCountNeverFalls.2.1⟩

theorem witness_EmittedValuesAreInRange :
    (visiting (firing 2)).Inv ∧ ¬ (visiting (firing 2)).AboutToLoad ∧
      (next (visiting (firing 2))).trace =
        (visiting (firing 2)).trace ++ [.setTone .ch0 10, .setVolume .ch0 0] :=
  ⟨visiting_inv, witness_LoopCountNeverFalls.2.1, by decide⟩

/-- An infinite repeat of an empty body (70_reset_and_hazards.md R137) whose passes are counted up to
the limit: REPEAT_END jumps back to itself. -/
def spinning : State :=
  fetching [0xE4]
    { Part.fresh 0 with infiniteLoopCount := 0xFFFF, rs := [⟨0, true, 1, 0⟩] }

theorem spinning_run (k : Nat) : Sys2Proof.core.run k spinning = .next spinning := by
  induction k with
  | zero => rfl
  | succ k ih => exact ih

theorem witness_HungOperationsNeverComplete :
    (silent .hung).activity = .hung ∧
    (∃ p, spinning.Consuming .tick .ch0 p) ∧
    (∀ (k : Nat) (t : State), Sys2Proof.core.run k spinning = .next t →
      t.faulted = false ∧
        ∀ q, t.Consuming .tick .ch0 q → KeepsConsuming (t.params.songByte q.cursor)) ∧
    (fetching [0xE2, 0x00, 0xE4] (Part.fresh 0)).Consuming .tick .ch0 (Part.fresh 0) ∧
    (fetching [0xE2, 0x00, 0xE4] (Part.fresh 0)).BytesAt (Part.fresh 0).cursor
      [0xE2, 0x00, 0xE4] ∧
    (Part.fresh 0).rs.length < 8 := by
  refine ⟨rfl, ⟨_, rfl, rfl⟩, fun k t h => ?_, ⟨rfl, rfl⟩, ?_, by decide⟩
  · rw [spinning_run] at h
    cases h
    refine ⟨rfl, fun q hq => ?_⟩
    cases hq.2
    unfold KeepsConsuming
    decide
  · simp only [State.BytesAt]
    decide

end Sys2Proof.Tests
end

section
/-! The parameters in every operation (10_state.md R15, 20_memory.md R39): for each operation of the
model, once, that it leaves them as they are; then for every step, and with it for song memory. -/

namespace Sys2Proof.Machine

open Sys2Proof

/-! ### Operands and the bodies of the meanings -/

/-- Fetching a one-byte operand keeps the parameters where what follows does. -/
theorem State.afterByte_params {s : State} {ch : Channel} {p : Part} {go : Part → State}
    (hgo : ∀ p', (go p').params = s.params) : (s.afterByte ch p go).params = s.params := by
  obtain ⟨_, e⟩ | ⟨_, e⟩ := s.afterByte_cases ch p go <;> rw [e]
  · exact hgo _
  · rfl

/-- Fetching a two-byte operand keeps the parameters where what follows does. -/
theorem State.afterShort_params {s : State} {ch : Channel} {p : Part} {go : Part → State}
    (hgo : ∀ p', (go p').params = s.params) : (s.afterShort ch p go).params = s.params := by
  obtain ⟨_, _, e⟩ | ⟨_, e⟩ | ⟨_, _, e⟩ := s.afterShort_cases ch p go <;> rw [e]
  · exact hgo _
  · rfl
  · rfl

@[simp] theorem State.usePatch_params (s : State) (ch : Channel) (p : Part) (n : Byte) :
    (s.usePatch ch p n).params = s.params := by
  unfold State.usePatch
  split <;> rfl

@[simp] theorem State.strike_params (s : State) (c : Caller) (ch : Channel) (p : Part)
    (tie : Bool) : (s.strike c ch p tie).params = s.params := by
  unfold State.strike
  split <;> rfl

/-! ### The instructions and the consume loop (43_part_tick.md R88) -/

/-- A meaning keeps the parameters where its body does. -/
theorem inConsume_params {s t : State} {body : Caller → Channel → Part → State}
    (h : inConsume s body = .next t) (hbody : ∀ c ch p, (body c ch p).params = s.params) :
    t.params = s.params := by
  obtain ⟨c, ch, p, _, _, rfl⟩ := inConsume_next h
  exact hbody c ch p

/-- No instruction changes the parameters, faulting or not. -/
theorem exec_params {i : Instr} {s t : State} (h : exec i s = .next t) : t.params = s.params := by
  cases i with
  | rest v => exact inConsume_params h fun _ _ _ => rfl
  | note p d tie =>
    exact inConsume_params h fun _ _ _ => State.afterByte_params fun _ => State.strike_params ..
  | setPatch n =>
    exact inConsume_params h fun _ _ _ => State.afterByte_params fun _ => State.usePatch_params ..
  | repeatEnd =>
    refine inConsume_params h fun _ _ p => ?_
    split <;> rfl
  | setDetune d => exact inConsume_params h fun _ _ _ => State.afterShort_params fun _ => rfl
  | setLfo delay speed depth x =>
    exact inConsume_params h fun _ _ _ =>
      State.afterByte_params fun _ => State.afterByte_params fun _ =>
        State.afterByte_params fun _ => State.afterShort_params fun _ => rfl
  | repeatBreak | volumeUp | volumeDown | term => exact inConsume_params h fun _ _ _ => rfl
  | setVolume | repeatStart | setNoise | lfoEnable | setMix =>
    exact inConsume_params h fun _ _ _ => State.afterByte_params fun _ => rfl

/-- The fetch of an instruction keeps the parameters, the opcode byte in range or not. -/
theorem State.fetch_params {s s' : State} {ch : Channel}
    (h : (∃ i, s.fetch ch = .run i s') ∨ s.fetch ch = .raised s') : s'.params = s.params := by
  cases hp : s.slots.get ch with
  | none => simp [State.fetch, hp] at h
  | some p =>
    obtain ⟨_, ⟨_, _, _, e⟩ | ⟨_, _, e⟩⟩ | ⟨_, e⟩ := State.fetch_cases hp
    · obtain ⟨_, h⟩ | h := h <;> cases e.symm.trans h
      rfl
    · obtain ⟨_, h⟩ | h := h <;> cases e.symm.trans h
    · obtain ⟨_, h⟩ | h := h <;> cases e.symm.trans h
      rfl

theorem consumeTurn_params {s t : State} {ch : Channel} (h : consumeTurn s ch = .next t) :
    t.params = s.params := by
  obtain ⟨i, s', hf, he⟩ | hf := consumeTurn_cases h
  · exact (exec_params he).trans (State.fetch_params (.inl ⟨i, hf⟩))
  · exact State.fetch_params (.inr hf)

/-! ### The Part's tick and CtxTick (43_part_tick.md R87, 47_play_context.md R113) -/

@[simp] theorem State.partTick_params (s : State) (c : Caller) (ch : Channel) (p : Part) :
    (s.partTick c ch p).params = s.params := by
  unfold State.partTick
  split
  · rfl
  · dsimp only
    split <;> simp

@[simp] theorem State.afterChannel_params (s : State) (c : Caller) (ch : Channel) :
    (s.afterChannel c ch).params = s.params := by
  obtain ⟨_, _, e⟩ | ⟨_, e⟩ | ⟨_, _, _, _, e⟩ | ⟨_, _, _, _, e⟩ := s.afterChannel_cases c ch <;>
    rw [e] <;> rfl

@[simp] theorem State.visit_params (s : State) (c : Caller) (ch : Channel) :
    (s.visit c ch).params = s.params := by
  unfold State.visit
  split <;> simp

@[simp] theorem State.leave_params (s : State) (c : Caller) (ch : Channel) (alive : Bool) :
    (s.leave c ch alive).params = s.params := by
  cases alive <;> simp [State.leave]

/-! ### CtxEnd, the loop policy and PRODUCE (47_play_context.md R114, R116, R117) -/

@[simp] theorem State.endSlot_params (s : State) (ch : Channel) :
    (s.endSlot ch).params = s.params := by
  obtain ⟨_, e⟩ | ⟨_, _, e⟩ := s.endSlot_cases ch
  · rw [e]
  · rw [e, State.dropPart_params, State.emit_params]

@[simp] theorem State.ctxEnd_params (s : State) : s.ctxEnd.params = s.params := by
  simp [State.ctxEnd]

@[simp] theorem State.applyLoopPolicy_params (s : State) :
    s.applyLoopPolicy.params = s.params := by
  unfold State.applyLoopPolicy
  split
  · split <;> simp
  · rfl

@[simp] theorem State.pull_params (s : State) : s.pull.params = s.params := rfl

@[simp] theorem State.produceTurn_params (s : State) (n k : Nat) :
    (s.produceTurn n k).params = s.params := by
  unfold State.produceTurn
  split
  · dsimp only
    split <;> simp
  · rfl

/-! ### LOAD and the acceptance of a request (70_reset_and_hazards.md R132, 47_play_context.md
R111) -/

@[simp] theorem State.startSession_params (s : State) (sampleRate : Word32)
    (maxLoopCount : Option Nat) (h : Header) :
    (s.startSession sampleRate maxLoopCount h).params = s.params := by
  simp [State.startSession]

@[simp] theorem State.load_params (s : State) (sampleRate : Word32) (maxLoopCount : Option Nat) :
    (s.load sampleRate maxLoopCount).params = s.params := by
  unfold State.load
  split
  · dsimp only
    split <;> simp
  · rfl

@[simp] theorem State.begin_params (s : State) (r : Request) : (s.begin r).params = s.params := by
  cases r <;> simp [State.begin]

@[simp] theorem State.serve_params (s : State) (r : Request) : (s.serve r).params = s.params := by
  unfold State.serve
  split
  · exact s.load_params ..
  · split
    · rfl
    · exact s.begin_params _

@[simp] theorem State.accept_params (s : State) : s.accept.params = s.params := by
  unfold State.accept
  split
  · rfl
  · exact State.serve_params ..

/-! ### A step -/

/-- No step changes a parameter (R15): one case for each activity. -/
theorem step_params {s t : State} (h : step s = .next t) : t.params = s.params := by
  obtain ⟨_, rfl⟩ | ⟨n, k, _, rfl⟩ | ⟨c, ch, _, rfl⟩ | ⟨_, ch, _, hc⟩ | ⟨c, ch, alive, _, rfl⟩ |
    ⟨_, rfl⟩ := step_cases h
  · exact s.accept_params
  · exact s.produceTurn_params n k
  · exact s.visit_params c ch
  · exact consumeTurn_params hc
  · exact s.leave_params c ch alive
  · rfl

/-- Settles O10: it holds, for song memory is one of the parameters. -/
theorem noStepWritesSongMemory : Obligations.NoStepWritesSongMemory := by
  intro s t h
  have hP : t.params = s.params := step_params h
  exact ⟨hP, fun a => congrArg (·.songByte a) hP⟩

end Sys2Proof.Machine
end

section
/-! The opcode map (30_encoding.md R54): what each format's decoder takes where its bytes are there,
what the map names in each of its ranges, and that the two agree for every opcode byte. -/

namespace Sys2Proof

/-- This decoding answers an instruction with mnemonic `m`, and the instruction's length and the
bytes left over make up `n`. -/
def Decoded.Takes (d : Decoded) (m : String) (n : Nat) : Prop :=
  ∃ i tail, d = .ok (i, tail) ∧ i.length + tail.length = n ∧ i.mnemonic = m

/-- The mnemonic column of R54, as the obligation writes it. -/
def opcodeMnemonic (op : Byte) : String :=
  if op.toNat ≤ 0x7F then "REST"
  else if op.toNat ≤ 0xDF then "NOTE"
  else if op = 0xE0 then "SET_PATCH"
  else if op = 0xE1 then "SET_VOLUME"
  else if op = 0xE2 then "REPEAT_START"
  else if op = 0xE3 then "REPEAT_BREAK"
  else if op = 0xE4 then "REPEAT_END"
  else if op = 0xE5 then "SET_NOISE"
  else if op = 0xE6 then "VOLUME_UP"
  else if op = 0xE7 then "VOLUME_DOWN"
  else if op = 0xE9 then "SET_DETUNE"
  else if op = 0xEA then "SET_LFO"
  else if op = 0xEB then "LFO_ENABLE"
  else if op = 0xEC then "SET_MIX"
  else "TERM"

/-! ### The formats (R51, R52) -/

/-- A one-byte instruction, with no operand to miss, takes the opcode byte alone. -/
theorem takes_of_length_one {d : Decoded} {i : Instr} {rest : List Byte} (hd : d = .ok (i, rest))
    (hi : i.length = 1) : d.Takes i.mnemonic (rest.length + 1) :=
  ⟨i, rest, hd, by omega, rfl⟩

theorem decodeByteOperand_takes {m : String} {make : Byte → Instr} {rest : List Byte}
    (hlen : ∀ b, (make b).length = 2) (hm : ∀ b, (make b).mnemonic = m) (h : 1 ≤ rest.length) :
    (decodeByteOperand m make rest).Takes m (rest.length + 1) := by
  cases rest with
  | nil => cases h
  | cons b tail => exact ⟨make b, tail, rfl, by simp only [hlen, List.length_cons]; omega, hm b⟩

/-- NOTE takes two bytes or three, as the byte after the duration is the tie marker or not (R56). -/
theorem decodeNote_takes (p : BitVec 7) {rest : List Byte} (h : 1 ≤ rest.length) :
    (decodeNote p rest).Takes "NOTE" (rest.length + 1) := by
  match rest, h with
  | [d], _ => exact ⟨.note p d false, [], rfl, rfl, rfl⟩
  | d :: t :: tail, _ =>
    by_cases ht : t = Config.tieMarker
    · exact ⟨.note p d true, tail, if_pos ht, Nat.add_comm .., rfl⟩
    · exact ⟨.note p d false, t :: tail, if_neg ht, Nat.add_comm .., rfl⟩

theorem decodeDetune_takes {rest : List Byte} (h : 2 ≤ rest.length) :
    (decodeDetune rest).Takes "SET_DETUNE" (rest.length + 1) := by
  match rest, h with
  | lo :: hi :: tail, _ => exact ⟨.setDetune (le16 lo hi), tail, rfl, Nat.add_comm .., rfl⟩

theorem decodeLfo_takes {rest : List Byte} (h : 5 ≤ rest.length) :
    (decodeLfo rest).Takes "SET_LFO" (rest.length + 1) := by
  match rest, h with
  | delay :: speed :: depth :: lo :: hi :: tail, _ =>
    exact ⟨.setLfo delay speed depth (le16 lo hi), tail, rfl, Nat.add_comm .., rfl⟩

/-! ### The ranges of the map (R54, R55) -/

theorem opcodeMnemonic_rest {op : Byte} (h : op < 0x80) : opcodeMnemonic op = "REST" :=
  if_pos (Nat.le_of_lt_succ h)

theorem opcodeMnemonic_note {op : Byte} (h : ¬ op < 0x80) (h' : op < 0xE0) :
    opcodeMnemonic op = "NOTE" := by
  rw [opcodeMnemonic, if_neg fun hle => h (Nat.lt_succ_of_le hle), if_pos (Nat.le_of_lt_succ h')]

/-- The 20 terminator bytes are the ones the map has no row of their own for. -/
theorem opcodeMnemonic_term {op : Byte} (h : isTermOpcode op = true) :
    opcodeMnemonic op = "TERM" := by
  revert op
  decide

/-- The opcode byte selects the instruction the map names, by R54's ranges, where the five bytes
the longest format needs are there. -/
theorem decodeOpcode_takes (op : Byte) {rest : List Byte} (h : 5 ≤ rest.length) :
    (decodeOpcode op rest).Takes (opcodeMnemonic op) (rest.length + 1) := by
  have h1 : 1 ≤ rest.length := by omega
  have h2 : 2 ≤ rest.length := by omega
  have f1 {m : String} {make : Byte → Instr} (hlen : ∀ b, (make b).length = 2)
      (hm : ∀ b, (make b).mnemonic = m) := decodeByteOperand_takes hlen hm h1
  obtain hr | ⟨hn, hn'⟩ | rfl | rfl | rfl | rfl | rfl | rfl | rfl | rfl | rfl | rfl | rfl | rfl |
    ht := opcode_cases op
  · rw [opcodeMnemonic_rest hr]
    exact takes_of_length_one (decodeOpcode_rest hr rest) rfl
  · rw [opcodeMnemonic_note hn hn', decodeOpcode_note hn hn']
    exact decodeNote_takes _ h1
  · exact f1 (make := .setPatch) (fun _ => rfl) fun _ => rfl
  · exact f1 (make := .setVolume) (fun _ => rfl) fun _ => rfl
  · exact f1 (make := .repeatStart) (fun _ => rfl) fun _ => rfl
  · exact takes_of_length_one (decodeOpcode_E3 rest) rfl
  · exact takes_of_length_one (decodeOpcode_E4 rest) rfl
  · exact f1 (make := .setNoise) (fun _ => rfl) fun _ => rfl
  · exact takes_of_length_one (decodeOpcode_E6 rest) rfl
  · exact takes_of_length_one (decodeOpcode_E7 rest) rfl
  · exact decodeDetune_takes h2
  · exact decodeLfo_takes h
  · exact f1 (make := .lfoEnable) (fun _ => rfl) fun _ => rfl
  · exact f1 (make := .setMix) (fun _ => rfl) fun _ => rfl
  · rw [opcodeMnemonic_term ht]
    exact takes_of_length_one (decodeOpcode_term ht rest) rfl

/-- Settles O3: it holds, for `decodeOpcode` and the map agree on each of R54's ranges. -/
theorem opcodeByteSelectsTheInstruction : Obligations.OpcodeByteSelectsTheInstruction :=
  fun op _ h => decodeOpcode_takes op h

end Sys2Proof
end

section
/-! The envelope's operations (40_envelope.md R61, R62, R65 to R67) in the natural numbers of the
byte fields: what each branch of EnvAttack and of EnvUpdate leaves. -/

namespace Sys2Proof.Machine

open Sys2Proof

/-- The byte of a saturating difference is the natural numbers' difference, which stops at 0. -/
theorem satSub_eq_ofNat (a b : Byte) : satSub a b = BitVec.ofNat 8 (a.toNat - b.toNat) := by
  rw [← satSub_toNat, BitVec.ofNat_toNat, BitVec.setWidth_eq]

/-! ### EnvAttack (R61) -/

theorem Envelope.attack_eq (e : Envelope) :
    e.attack = { e with
      current := e.attackLevel
      phase := if e.attackLevel.toNat = 255 then .decay else .attack } := by
  have h255 : e.attackLevel = 255 ↔ e.attackLevel.toNat = 255 := BitVec.toNat_inj.symm
  simp only [Envelope.attack, h255]

/-! ### EnvUpdate, by phase (R63) -/

theorem Envelope.update_of_decay {e : Envelope} (h : e.phase = .decay) :
    e.update = e.decayStep := by
  rw [Envelope.update, h]

theorem Envelope.update_of_sustain {e : Envelope} (h : e.phase = .sustain) :
    e.update = e.sustainStep := by
  rw [Envelope.update, h]

theorem Envelope.update_of_release {e : Envelope} (h : e.phase = .release) :
    e.update = e.releaseStep := by
  rw [Envelope.update, h]

/-! ### The phases' steps (R65, R66, R67) -/

/-- The Decay phase's test, on bytes, compares the natural numbers' difference. -/
theorem satSub_lt_iff (a b c : Byte) : satSub a b < c ↔ a.toNat - b.toNat < c.toNat := by
  rw [BitVec.lt_def, satSub_toNat]

theorem Envelope.decayStep_of_lt {e : Envelope}
    (h : e.current.toNat - e.decayRate.toNat < e.sustainLevel.toNat) :
    e.decayStep = { e with current := e.sustainLevel, phase := .sustain } :=
  if_pos ((satSub_lt_iff ..).2 h)

theorem Envelope.decayStep_of_le {e : Envelope}
    (h : e.sustainLevel.toNat ≤ e.current.toNat - e.decayRate.toNat) :
    e.decayStep =
      { e with current := BitVec.ofNat 8 (e.current.toNat - e.decayRate.toNat) } := by
  rw [← satSub_eq_ofNat]
  exact if_neg fun hlt => Nat.not_lt.2 h ((satSub_lt_iff ..).1 hlt)

theorem Envelope.sustainStep_eq (e : Envelope) :
    e.sustainStep =
      { e with current := BitVec.ofNat 8 (e.current.toNat - e.sustainRate.toNat) } := by
  rw [Envelope.sustainStep, satSub_eq_ofNat]

theorem Envelope.releaseStep_eq (e : Envelope) :
    e.releaseStep =
      { e with current := BitVec.ofNat 8 (e.current.toNat - e.releaseRate.toNat) } := by
  rw [Envelope.releaseStep, satSub_eq_ofNat]

/-- Settles O30: it holds, each clause by the equation of the operation or of its phase's step. -/
theorem envelopeOperations : Obligations.EnvelopeOperations := by
  intro e
  refine ⟨e.attack_eq, rfl, fun hp hlt => ?decayToSustain, fun hp hle => ?decay,
    fun hp => ?sustain, fun hp => ?release⟩
  case decayToSustain => exact (Envelope.update_of_decay hp).trans (Envelope.decayStep_of_lt hlt)
  case decay => exact (Envelope.update_of_decay hp).trans (Envelope.decayStep_of_le hle)
  case sustain => exact (Envelope.update_of_sustain hp).trans e.sustainStep_eq
  case release => exact (Envelope.update_of_release hp).trans e.releaseStep_eq

end Sys2Proof.Machine
end

section
/-! The volume output (43_part_tick.md R91): the port's 4 bits hold the whole scaled product wherever
`channel_volume` is legal. -/

namespace Sys2Proof.Machine

open Sys2Proof

/-- For every Part, a `channel_volume` above 15 included (log 18): the port keeps 4 bits. -/
theorem Part.volOut_toNat (p : Part) :
    p.volOut.toNat = p.env.current.toNat * p.channelVolume.toNat / 256 % 16 :=
  BitVec.toNat_ofNat ..

/-- The largest product, 255 * 15 = 3825, is below 15 * 256: so a volume of 15 is never written. -/
theorem Part.scaledVolume_le {p : Part} (h : p.channelVolume ≤ 15) :
    p.env.current.toNat * p.channelVolume.toNat / 256 ≤ 14 := by
  have hcurrent : p.env.current.toNat ≤ 255 := Nat.le_of_lt_succ p.env.current.isLt
  have hvolume : p.channelVolume.toNat ≤ 15 := h
  have hproduct : p.env.current.toNat * p.channelVolume.toNat ≤ 255 * 15 :=
    Nat.mul_le_mul hcurrent hvolume
  omega

/-- Settles O37: it holds, since a product of at most 14 loses nothing in the port's 4 bits. -/
theorem volOutIsTheScaledProduct : Obligations.VolOutIsTheScaledProduct := by
  intro p h
  have hle := Part.scaledVolume_le h
  have heq : p.volOut.toNat = p.env.current.toNat * p.channelVolume.toNat / 256 :=
    p.volOut_toNat.trans (Nat.mod_eq_of_lt (Nat.lt_succ_of_le (Nat.le_succ_of_le hle)))
  exact ⟨heq, heq ▸ hle⟩

end Sys2Proof.Machine
end

section
/-! The step at an instruction whose bytes stand at the cursor (43_part_tick.md R88): the six bytes
fetched begin with them, so the step is the meaning of what they decode to, the cursor past the
opcode byte. -/

namespace Sys2Proof.Machine

open Sys2Proof

/-! ### The bytes fetched -/

/-- The bytes from an address up, addresses wrapping, inside the blob or not. -/
def Params.bytesFrom (P : Params) : Nat → Word → List Byte
  | 0, _ => []
  | n + 1, a => P.songByte a :: P.bytesFrom n (a + 1)

theorem Params.window_eq_bytesFrom (P : Params) (a : Word) : P.window a = P.bytesFrom 6 a := by
  simp [Params.window, Params.bytesFrom, BitVec.add_assoc]

theorem State.BytesAt.begins_bytesFrom {s : State} {a : Word} {bytes : List Byte} {n : Nat}
    (h : s.BytesAt a bytes) (hlen : bytes.length ≤ n) : bytes <+: s.params.bytesFrom n a := by
  induction bytes generalizing a n with
  | nil => exact List.nil_prefix
  | cons b rest ih =>
    obtain ⟨_, hb, hrest⟩ := h
    cases n with
    | zero => exact absurd hlen (Nat.not_succ_le_zero _)
    | succ n => exact List.cons_prefix_cons.2 ⟨hb.symm, ih hrest (Nat.le_of_succ_le_succ hlen)⟩

/-- An instruction's bytes at an address begin the six bytes that are fetched there. -/
theorem State.BytesAt.window_eq {s : State} {a : Word} {bytes : List Byte} (h : s.BytesAt a bytes)
    (hlen : bytes.length ≤ 6) : ∃ tail, s.params.window a = bytes ++ tail := by
  obtain ⟨tail, htail⟩ := h.begins_bytesFrom hlen
  exact ⟨tail, (s.params.window_eq_bytesFrom a).trans htail.symm⟩

/-! ### The step -/

theorem State.Consuming.putPart {s : State} {c : Caller} {ch : Channel} {p : Part}
    (h : s.Consuming c ch p) (q : Part) : (s.putPart ch q).Consuming c ch q :=
  ⟨h.1, PerChannel.get_set_same ..⟩

theorem fetch_of_decode {s : State} {ch : Channel} {p : Part} {i : Instr} {rest : List Byte}
    (hp : s.slots.get ch = some p) (hin : s.params.InBlob p.cursor)
    (hd : decode (s.params.window p.cursor) = .ok (i, rest)) :
    s.fetch ch = .run i (s.putPart ch { p with cursor := p.cursor + 1 }) := by
  obtain ⟨_, ⟨_, _, hd', e⟩ | ⟨_, hd', _⟩⟩ | ⟨hout, _⟩ := State.fetch_cases hp
  · cases hd.symm.trans hd'
    exact e
  · cases hd.symm.trans hd'
  · exact absurd hin (Nat.not_lt.2 hout)

/-- With an instruction's bytes at the cursor, the step is its meaning at the state whose cursor is
past the opcode byte. -/
theorem step_of_bytesAt {s : State} {c : Caller} {ch : Channel} {p : Part} {i : Instr} {op : Byte}
    {operands : List Byte} (h : s.Consuming c ch p) (hb : s.BytesAt p.cursor (op :: operands))
    (hlen : (op :: operands).length ≤ 6)
    (hd : ∀ tail, decode (op :: operands ++ tail) = .ok (i, tail)) :
    step s = exec i (s.putPart ch { p with cursor := p.cursor + 1 }) := by
  obtain ⟨ha, hp⟩ := h
  obtain ⟨tail, htail⟩ := hb.window_eq hlen
  have hfetch : s.fetch ch = .run i (s.putPart ch { p with cursor := p.cursor + 1 }) :=
    fetch_of_decode hp hb.1 (htail ▸ hd tail)
  simp only [step, ha, consumeTurn, hfetch]

end Sys2Proof.Machine
end

section
/-! VOLUME_UP and VOLUME_DOWN (45_commands.md R97, R98), in the natural numbers of
`channel_volume`. -/

namespace Sys2Proof.Machine

open Sys2Proof

/-- The step up stops at 15, and brings every volume above 15 down to it. -/
theorem volumeStepUp_eq_ofNat (v : Byte) :
    volumeStepUp v = BitVec.ofNat 8 (min (v.toNat + 1) 15) := by
  unfold volumeStepUp
  split
  next h =>
    have hv : v.toNat + 1 ≤ 15 := h
    rw [Nat.min_eq_left hv, BitVec.ofNat_add, BitVec.ofNat_toNat, BitVec.setWidth_eq]
    rfl
  next h =>
    have hv : ¬ v.toNat < 15 := h
    rw [Nat.min_eq_right (by omega)]
    rfl

theorem volumeStepDown_eq_ofNat (v : Byte) : volumeStepDown v = BitVec.ofNat 8 (v.toNat - 1) :=
  satSub_eq_ofNat v 1

theorem exec_volumeUp {s : State} {c : Caller} {ch : Channel} {p : Part} (h : s.Consuming c ch p) :
    exec .volumeUp s = .next (s.putPart ch { p with
      channelVolume := BitVec.ofNat 8 (min (p.channelVolume.toNat + 1) 15) }) := by
  rw [← volumeStepUp_eq_ofNat]
  exact inConsume_of_consuming h.1 h.2 _

theorem exec_volumeDown {s : State} {c : Caller} {ch : Channel} {p : Part}
    (h : s.Consuming c ch p) :
    exec .volumeDown s = .next (s.putPart ch { p with
      channelVolume := BitVec.ofNat 8 (p.channelVolume.toNat - 1) }) := by
  rw [← volumeStepDown_eq_ofNat]
  exact inConsume_of_consuming h.1 h.2 _

/-- Settles O21: it holds; the step is exec past the opcode byte, whose write of the Part replaces
the cursor's. -/
theorem volumeUpAndDownResult : Obligations.VolumeUpAndDownResult := by
  intro s c ch p h
  refine ⟨fun hb => ?stepUp, fun hb => ?stepDown, exec_volumeUp h, exec_volumeDown h⟩
  case stepUp =>
    rw [step_of_bytesAt h hb (by decide) decodeOpcode_E6, exec_volumeUp (h.putPart _),
      State.putPart_putPart]
    rfl
  case stepDown =>
    rw [step_of_bytesAt h hb (by decide) decodeOpcode_E7, exec_volumeDown (h.putPart _),
      State.putPart_putPart]
    rfl

end Sys2Proof.Machine
end

section
/-! SET_DETUNE (45_commands.md R101): its two-byte operand as a signed value, and the fetch of it,
which faults on either byte with the cursor past the opcode byte. -/

namespace Sys2Proof.Machine

open Sys2Proof

/-- The two's-complement value of two bytes, low byte first. -/
theorem le16_toInt (lo hi : Byte) :
    (le16 lo hi).toInt = ((lo.toNat + 256 * hi.toNat : Nat) : Int) -
      (if lo.toNat + 256 * hi.toNat < 32768 then 0 else 65536) := by
  rw [BitVec.toInt_eq_toNat_cond, le16_toNat]
  split <;> split <;> omega

/-! ### The fetch of a two-byte operand -/

section AfterShort

variable {s : State} {ch : Channel} {p : Part} {go : Part → State}

theorem State.afterShort_of_inBlob (h : s.params.InBlob p.cursor)
    (h' : s.params.InBlob (p.cursor + 1)) :
    s.afterShort ch p go = go { p with cursor := p.cursor + 2 } := by
  obtain ⟨_, _, e⟩ | ⟨hlo, _⟩ | ⟨_, hhi, _⟩ := s.afterShort_cases ch p go
  · exact e
  · exact absurd h (Nat.not_lt.2 hlo)
  · exact absurd h' (Nat.not_lt.2 hhi)

theorem State.afterShort_of_low_out (h : ¬ s.params.InBlob p.cursor) :
    s.afterShort ch p go = s.raiseIn ch p p.cursor := by
  obtain ⟨hlo, _, _⟩ | ⟨_, e⟩ | ⟨hlo, _, _⟩ := s.afterShort_cases ch p go
  · exact absurd hlo h
  · exact e
  · exact absurd hlo h

theorem State.afterShort_of_high_out (h : s.params.InBlob p.cursor)
    (h' : ¬ s.params.InBlob (p.cursor + 1)) :
    s.afterShort ch p go = s.raiseIn ch p (p.cursor + 1) := by
  obtain ⟨_, hhi, _⟩ | ⟨hlo, _⟩ | ⟨_, _, e⟩ := s.afterShort_cases ch p go
  · exact absurd hhi h'
  · exact absurd h (Nat.not_lt.2 hlo)
  · exact e

end AfterShort

/-! ### The meaning -/

theorem exec_setDetune {s : State} {c : Caller} {ch : Channel} {p : Part} (h : s.Consuming c ch p)
    (d : Word) :
    exec (.setDetune d) s =
      .next (s.afterShort ch p fun q => s.putPart ch { q with detune := d }) :=
  inConsume_of_consuming h.1 h.2 _

theorem exec_setDetune_of_inBlob {s : State} {c : Caller} {ch : Channel} {p : Part}
    (h : s.Consuming c ch p) (d : Word) (hlo : s.params.InBlob p.cursor)
    (hhi : s.params.InBlob (p.cursor + 1)) :
    exec (.setDetune d) s =
      .next (s.putPart ch { p with cursor := p.cursor + 2, detune := d }) := by
  rw [exec_setDetune h, State.afterShort_of_inBlob hlo hhi]

/-- The step at SET_DETUNE's three bytes: the two operand bytes in the blob are fetched after the
opcode byte. -/
theorem step_setDetune {s : State} {c : Caller} {ch : Channel} {p : Part} {lo hi : Byte}
    (h : s.Consuming c ch p) (hb : s.BytesAt p.cursor [0xE9, lo, hi]) :
    step s =
      .next (s.putPart ch { p with cursor := p.cursor + 3, detune := le16 lo hi }) := by
  have ⟨_, _, hlo, _, hhi, _, _⟩ := hb
  have hexec := exec_setDetune_of_inBlob (h.putPart { p with cursor := p.cursor + 1 })
    (le16 lo hi) hlo hhi
  have hcursor : p.cursor + 1 + 2 = p.cursor + 3 := BitVec.add_assoc ..
  rw [step_of_bytesAt h hb (by simp) fun _ => decodeOpcode_E9 _, hexec, State.putPart_putPart,
    hcursor]

/-- Settles O23: it holds, for the value that the two operand bytes assemble to. -/
theorem setDetuneResult : Obligations.SetDetuneResult := by
  intro s c ch p lo hi h
  refine ⟨le16 lo hi, le16_toInt lo hi, step_setDetune h, exec_setDetune_of_inBlob h _,
    fun hlo => ?lowOut, fun hlo hhi => ?highOut⟩
  case lowOut => rw [exec_setDetune h, State.afterShort_of_low_out hlo]
  case highOut => rw [exec_setDetune h, State.afterShort_of_high_out hlo hhi]

end Sys2Proof.Machine
end

section
/-! SptNext (46_samples_per_tick.md R106): its two branches, the fields it leaves alone, and that on
a legal converter neither the i32 error nor the u32 count overflows. -/

namespace Sys2Proof.Machine

open Sys2Proof

namespace SamplesPerTick

variable {c : SamplesPerTick}

/-! ### The branches -/

theorem next_of_nonneg (h : 0 ≤ c.error.toInt + c.remainder.toNat) :
    c.next = ({ c with error := BitVec.ofInt 32 (c.error.toInt + c.remainder.toNat - 5994) },
      c.quotient + 1) := if_pos h

theorem next_of_neg (h : c.error.toInt + c.remainder.toNat < 0) :
    c.next = ({ c with error := BitVec.ofInt 32 (c.error.toInt + c.remainder.toNat) },
      c.quotient) := if_neg (Int.not_le.2 h)

/-- SptNext writes `error` and nothing else. -/
theorem next_frame (c : SamplesPerTick) : c.next.1 = { c with error := c.next.1.error } := by
  obtain h | h := le_or_gt 0 (c.error.toInt + c.remainder.toNat)
  · rw [next_of_nonneg h]
  · rw [next_of_neg h]

@[simp] theorem next_quotient (c : SamplesPerTick) : c.next.1.quotient = c.quotient :=
  congrArg (·.quotient) c.next_frame

@[simp] theorem next_remainder (c : SamplesPerTick) : c.next.1.remainder = c.remainder :=
  congrArg (·.remainder) c.next_frame

@[simp] theorem next_remaining (c : SamplesPerTick) : c.next.1.remaining = c.remaining :=
  congrArg (·.remaining) c.next_frame

/-! ### The widths -/

/-- A legal error and remainder have a sum inside -5994..5992 (R106). -/
theorem Legal.sum_bounds (h : c.Legal) :
    -5994 ≤ c.error.toInt + c.remainder.toNat ∧ c.error.toInt + c.remainder.toNat ≤ 5992 := by
  obtain ⟨_, _, hrem, hlo, hhi, _⟩ := h
  omega

/-- The largest count, 716545 on a legal converter, is far inside u32 (R106). -/
theorem Legal.toNat_quotient_succ (h : c.Legal) :
    (c.quotient + 1).toNat = c.quotient.toNat + 1 := by
  obtain ⟨_, hquot, _⟩ := h
  exact BitVec.toNat_add_of_lt (Nat.lt_of_le_of_lt (Nat.succ_le_succ hquot) (by decide))

/-- An error in SptNext's range is kept whole by its i32. -/
theorem toInt_ofInt_error {e : Int} (hlo : -5994 ≤ e) (hhi : e ≤ 5992) :
    (BitVec.ofInt 32 e).toInt = e :=
  BitVec.toInt_ofInt_eq_self (by decide) (by omega) (by omega)

end SamplesPerTick

/-- Settles O45: it holds, for the sum and the count stay inside their 32 bits. -/
theorem sptNextResult : Obligations.SptNextResult := by
  intro c hc e
  obtain ⟨hlo, hhi⟩ := hc.sum_bounds
  refine ⟨fun he => ?carry, fun he => ?noCarry, c.next_quotient, c.next_remainder,
    c.next_remaining⟩
  case carry =>
    rw [SamplesPerTick.next_of_nonneg he]
    exact ⟨hc.toNat_quotient_succ,
      SamplesPerTick.toInt_ofInt_error (by omega) (by omega)⟩
  case noCarry =>
    rw [SamplesPerTick.next_of_neg he]
    exact ⟨rfl, SamplesPerTick.toInt_ofInt_error hlo hhi⟩

end Sys2Proof.Machine
end

section
/-! IS_PLAYING (47_play_context.md R115): how an idle block in a loaded session with no fault takes
its oldest request, and when some slot is present. -/

namespace Sys2Proof.Machine

open Sys2Proof

/-! ### Taking a request (60_exceptions.md R121, R125, R131) -/

theorem State.gate_eq_none {s : State} (hl : s.loaded = true) (hf : s.faulted = false) :
    s.gate = none := by
  simp [State.gate, hl, hf]

/-- A request that the gate does not turn away begins; LOAD, which has its own refusal test, begins
at any gate. -/
theorem State.serve_of_gate_eq_none {s : State} (h : s.gate = none) (r : Request) :
    s.serve r = s.begin r := by
  cases r <;> simp [State.serve, State.begin, h]

theorem State.accept_of_inbox {s : State} {r : Request} {rest : List Request}
    (h : s.inbox = r :: rest) : s.accept = ({ s with inbox := rest }).serve r := by
  simp [State.accept, h]

theorem step_of_idle {s : State} (h : s.activity = .idle) : step s = .next s.accept := by
  simp [step, h]

/-- In a loaded session with no fault the idle block begins its oldest request. -/
theorem step_begins_request {s : State} {r : Request} {rest : List Request}
    (ha : s.activity = .idle) (hi : s.inbox = r :: rest) (hl : s.loaded = true)
    (hf : s.faulted = false) : step s = .next (({ s with inbox := rest }).begin r) := by
  have hg : ({ s with inbox := rest } : State).gate = none := State.gate_eq_none hl hf
  rw [step_of_idle ha, State.accept_of_inbox hi, State.serve_of_gate_eq_none hg]

/-- An operation that completes in an idle block only adds its result. -/
theorem State.complete_of_idle {s : State} (h : s.activity = .idle) (r : Result) :
    s.complete r = { s with results := s.results ++ [r] } := by
  rw [State.complete, ← h]

/-! ### Presence -/

theorem State.playing_iff_exists_present (s : State) :
    s.playing = true ↔ ∃ ch p, s.slots.get ch = some p := by
  rw [State.playing_eq_true_iff]
  constructor
  · intro hne
    by_contra hnone
    have absent (ch : Channel) : s.slots.get ch = none :=
      Option.eq_none_iff_forall_ne_some.2 fun p hp => hnone ⟨ch, p, hp⟩
    exact hne (PerChannel.ext_get fun ch => by rw [absent ch]; cases ch <;> rfl)
  · rintro ⟨ch, p, hp⟩ hempty
    rw [hempty] at hp
    cases ch <;> cases hp

/-- Settles O42: it holds, the reported boolean being `s.playing`. -/
theorem isPlayingReportsPresence : Obligations.IsPlayingReportsPresence := by
  intro s rest ha hi hl hf
  refine ⟨s.playing, s.playing_iff_exists_present, ?_⟩
  rw [step_begins_request ha hi hl hf]
  exact congrArg _ (State.complete_of_idle (s := { s with inbox := rest }) ha _)

end Sys2Proof.Machine
end

section
/-! Decoding against encoding (30_encoding.md R51 to R56): each of the 15 rows decodes from its own
bytes, what decodes is one row's bytes, and the operands R53 gives each row. -/

namespace Sys2Proof

/-! ### REST's and NOTE's operands in their opcode bytes (R53) -/

theorem restByte_lt (v : BitVec 7) : v.setWidth 8 < (0x80 : Byte) := by
  revert v
  decide

theorem setWidth_restByte (v : BitVec 7) : (v.setWidth 8 : Byte).setWidth 7 = v := by
  revert v
  decide

theorem restByte_setWidth {op : Byte} (h : op < 0x80) : (op.setWidth 7).setWidth 8 = op := by
  revert op
  decide

/-- A NOTE whose pitch is at most 0x5F has an opcode byte in NOTE's range of the map (R54). -/
theorem noteByte_range {p : BitVec 7} (h : p ≤ 0x5F) :
    ¬ (0x80 ||| p.setWidth 8 : Byte) < 0x80 ∧ (0x80 ||| p.setWidth 8 : Byte) < 0xE0 := by
  revert p
  decide

theorem setWidth_noteByte (p : BitVec 7) : (0x80 ||| p.setWidth 8 : Byte).setWidth 7 = p := by
  revert p
  decide

/-- Every byte of NOTE's range is the opcode byte of its low seven bits, a pitch of at most 0x5F. -/
theorem noteByte_setWidth {op : Byte} (h : ¬ op < 0x80) (h' : op < 0xE0) :
    0x80 ||| (op.setWidth 7).setWidth 8 = op ∧ op.setWidth 7 ≤ (0x5F : BitVec 7) := by
  revert op
  decide

/-! ### The tie suffix (R56) -/

theorem decodeNote_tied (p : BitVec 7) (d : Byte) (rest : List Byte) :
    decodeNote p (d :: Config.tieMarker :: rest) = .ok (.note p d true, rest) := by
  rw [decodeNote, if_pos rfl]

/-- Without the tie marker after its duration a NOTE takes no suffix. -/
theorem decodeNote_untied (p : BitVec 7) (d : Byte) {rest : List Byte}
    (h : rest.head? ≠ some Config.tieMarker) :
    decodeNote p (d :: rest) = .ok (.note p d false, rest) := by
  cases rest with
  | nil => rfl
  | cons t tail => exact if_neg fun ht => h (congrArg some ht)

theorem decodeNote_ok {p : BitVec 7} {bytes rest : List Byte} {i : Instr}
    (h : decodeNote p bytes = .ok (i, rest)) :
    ∃ d tie, i = .note p d tie ∧
      bytes = d :: ((if tie then [Config.tieMarker] else []) ++ rest) := by
  match bytes with
  | [] => cases h
  | [d] =>
    cases h
    exact ⟨d, false, rfl, rfl⟩
  | d :: t :: tail =>
    rw [decodeNote] at h
    split at h
    · next ht =>
      cases h
      exact ⟨d, true, rfl, ht ▸ rfl⟩
    · cases h
      exact ⟨d, false, rfl, rfl⟩

/-! ### Formats F2 and F5 -/

theorem decodeDetune_ok {bytes rest : List Byte} {i : Instr}
    (h : decodeDetune bytes = .ok (i, rest)) :
    ∃ lo hi, i = .setDetune (le16 lo hi) ∧ bytes = lo :: hi :: rest := by
  match bytes with
  | [] | [_] => cases h
  | lo :: hi :: tail =>
    cases h
    exact ⟨lo, hi, rfl, rfl⟩

theorem decodeLfo_ok {bytes rest : List Byte} {i : Instr} (h : decodeLfo bytes = .ok (i, rest)) :
    ∃ delay speed depth lo hi, i = .setLfo delay speed depth (le16 lo hi) ∧
      bytes = delay :: speed :: depth :: lo :: hi :: rest := by
  match bytes with
  | [] | [_] | [_, _] | [_, _, _] | [_, _, _, _] => cases h
  | delay :: speed :: depth :: lo :: hi :: tail =>
    cases h
    exact ⟨delay, speed, depth, lo, hi, rfl, rfl⟩

/-! ### Decoding an encoding -/

/-- Settles O1: it holds, by the row of the opcode map that each instruction's first byte selects.
-/
theorem decodeUndoesEncode : Obligations.DecodeUndoesEncode := by
  intro i rest hwf htie
  cases i with
  | rest v =>
    exact (decodeOpcode_rest (restByte_lt v) rest).trans (by rw [setWidth_restByte])
  | note p d tie =>
    obtain ⟨hge, hlt⟩ := noteByte_range (of_decide_eq_true hwf)
    cases tie with
    | true =>
      refine (decodeOpcode_note hge hlt _).trans ?_
      rw [setWidth_noteByte]
      exact decodeNote_tied p d rest
    | false =>
      refine (decodeOpcode_note hge hlt _).trans ?_
      rw [setWidth_noteByte]
      exact decodeNote_untied p d (htie p d rfl)
  | setDetune w =>
    exact congrArg (fun v => (.ok (.setDetune v, rest) : Decoded)) (le16_loByte_hiByte w)
  | setLfo delay speed depth x =>
    exact congrArg (fun v => (.ok (.setLfo delay speed depth v, rest) : Decoded))
      (le16_loByte_hiByte x)
  | term op => exact decodeOpcode_term hwf rest
  | setPatch | setVolume | repeatStart | repeatBreak | repeatEnd | setNoise | volumeUp | volumeDown
  | lfoEnable | setMix => rfl

/-! ### Encoding what was decoded -/

/-- An instruction is the one these bytes begin with: it has an encoding, and they are that and the
bytes left over. -/
def Instr.Heads (i : Instr) (bytes rest : List Byte) : Prop :=
  i.wellFormed = true ∧ bytes = encode i ++ rest

/-- A format F1 row heads its bytes where its encoding is the row's opcode byte and its operand. -/
theorem heads_of_decodeByteOperand {op : Byte} {m : String} {make : Byte → Instr}
    {bytes rest : List Byte} {i : Instr} (hwf : ∀ b, (make b).wellFormed = true)
    (henc : ∀ b, encode (make b) = [op, b]) (h : decodeByteOperand m make bytes = .ok (i, rest)) :
    i.Heads (op :: bytes) rest := by
  obtain ⟨b, rfl, rfl⟩ := decodeByteOperand_ok h
  exact ⟨hwf b, by rw [henc]; rfl⟩

/-- A row of one byte heads its bytes where its encoding is its opcode byte. -/
theorem heads_of_ok {op : Byte} {bytes rest : List Byte} {i j : Instr} (hwf : j.wellFormed = true)
    (henc : encode j = [op]) (h : (.ok (j, bytes) : Decoded) = .ok (i, rest)) :
    i.Heads (op :: bytes) rest := by
  cases h
  exact ⟨hwf, by rw [henc]; rfl⟩

theorem heads_of_decodeOpcode {op : Byte} {bytes rest : List Byte} {i : Instr}
    (h : decodeOpcode op bytes = .ok (i, rest)) : i.Heads (op :: bytes) rest := by
  obtain hr | ⟨hge, hlt⟩ | rfl | rfl | rfl | rfl | rfl | rfl | rfl | rfl | rfl | rfl | rfl | rfl |
    ht := opcode_cases op
  · rw [decodeOpcode_rest hr] at h
    exact heads_of_ok (j := .rest _) rfl (congrArg (fun b => [b]) (restByte_setWidth hr)) h
  · rw [decodeOpcode_note hge hlt] at h
    obtain ⟨hop, hp⟩ := noteByte_setWidth hge hlt
    obtain ⟨d, tie, rfl, rfl⟩ := decodeNote_ok h
    refine ⟨decide_eq_true hp, ?_⟩
    rw [encode, hop]
    rfl
  · exact heads_of_decodeByteOperand (make := .setPatch) (fun _ => rfl) (fun _ => rfl) h
  · exact heads_of_decodeByteOperand (make := .setVolume) (fun _ => rfl) (fun _ => rfl) h
  · exact heads_of_decodeByteOperand (make := .repeatStart) (fun _ => rfl) (fun _ => rfl) h
  · exact heads_of_ok (j := .repeatBreak) rfl rfl h
  · exact heads_of_ok (j := .repeatEnd) rfl rfl h
  · exact heads_of_decodeByteOperand (make := .setNoise) (fun _ => rfl) (fun _ => rfl) h
  · exact heads_of_ok (j := .volumeUp) rfl rfl h
  · exact heads_of_ok (j := .volumeDown) rfl rfl h
  · obtain ⟨lo, hi, rfl, rfl⟩ := decodeDetune_ok h
    exact ⟨rfl, by simp [encode, loByte_le16, hiByte_le16]⟩
  · obtain ⟨delay, speed, depth, lo, hi, rfl, rfl⟩ := decodeLfo_ok h
    exact ⟨rfl, by simp [encode, loByte_le16, hiByte_le16]⟩
  · exact heads_of_decodeByteOperand (make := .lfoEnable) (fun _ => rfl) (fun _ => rfl) h
  · exact heads_of_decodeByteOperand (make := .setMix) (fun _ => rfl) (fun _ => rfl) h
  · rw [decodeOpcode_term ht] at h
    exact heads_of_ok (j := .term op) ht rfl h

theorem heads_of_decode {bytes rest : List Byte} {i : Instr} (h : decode bytes = .ok (i, rest)) :
    i.Heads bytes rest := by
  cases bytes with
  | nil => cases h
  | cons op tail => exact heads_of_decodeOpcode h

/-- Settles O2: it holds, by the row of the opcode map that the first byte selects. -/
theorem encodeUndoesDecode : Obligations.EncodeUndoesDecode :=
  fun _ _ _ h => heads_of_decode h

/-! ### Operands (R53) -/

theorem restTicks_toNat (v : BitVec 7) : (Machine.restTicks v).toNat = v.toNat + 1 := by
  revert v
  decide

theorem octaveOf_toNat (p : BitVec 7) : (Machine.octaveOf p).toNat = p.toNat / 12 := by
  have hp := p.isLt
  rw [Machine.octaveOf, BitVec.toNat_ofNat]
  omega

/-- A 16-bit register read as two's complement (00_scope.md section 5, `as_i16`). -/
theorem Word.toInt_eq (w : Word) :
    w.toInt = if w.toNat < 32768 then (w.toNat : Int) else (w.toNat : Int) - 65536 := by
  rw [BitVec.toInt_eq_toNat_cond]
  split <;> split <;> omega

/-- Settles O4: it holds; the opcode byte's low bits are REST's and NOTE's operands, and each other
row's operands are the bytes after it. -/
theorem operandsAreAssembledFromTheirBytes : Obligations.OperandsAreAssembledFromTheirBytes := by
  refine ⟨fun op rest hop => ?rest, fun op d t rest hge hle => ?note, fun _ _ => ?oneByte,
    fun lo hi rest => ?detune, fun delay speed depth lo hi rest => ?lfo⟩
  case rest =>
    have hlt : op < 0x80 := Nat.lt_succ_of_le hop
    refine ⟨op.setWidth 7, decodeOpcode_rest hlt rest, ?_, restTicks_toNat _⟩
    rw [BitVec.toNat_setWidth]
    omega
  case note =>
    have hn : ¬ op < 0x80 := Nat.not_lt.2 hge
    have hlt : op < 0xE0 := Nat.lt_succ_of_le hle
    refine ⟨op.setWidth 7, ?_, rfl, octaveOf_toNat _, decodeOpcode_note hn hlt _⟩
    rw [BitVec.toNat_setWidth]
    omega
  case oneByte => exact ⟨rfl, rfl, rfl, rfl, rfl, rfl⟩
  case detune => exact ⟨le16 lo hi, rfl, le16_toNat lo hi, Word.toInt_eq _⟩
  case lfo => exact ⟨le16 lo hi, rfl, le16_toNat lo hi, Word.toInt_eq _⟩

/-- Settles O5: it holds, each word by evaluating the decoder on it. -/
theorem specWordsDecode : Obligations.SpecWordsDecode := by
  unfold Obligations.SpecWordsDecode
  decide

end Sys2Proof
end

section
/-! Reads of song memory and one-byte operands by `InBlob` (20_memory.md R34, R35), and what the
fetch of an opcode does with them (43_part_tick.md R88). -/

namespace Sys2Proof.Machine

open Sys2Proof

/-! ### Reads -/

section Reads

variable {P : Params} {a : Word}

theorem Params.readByte_of_inBlob (h : P.InBlob a) : P.readByte a = .ok (P.songByte a) :=
  P.readByte_of_lt h

theorem Params.readByte_of_out (h : ¬ P.InBlob a) : P.readByte a = .error a :=
  P.readByte_of_ge (Nat.not_lt.1 h)

theorem Params.readShort_of_inBlob (h : P.InBlob a) (h' : P.InBlob (a + 1)) :
    P.readShort a = .ok (le16 (P.songByte a) (P.songByte (a + 1))) := by
  simp only [Params.readShort, Params.readByte_of_inBlob h, Params.readByte_of_inBlob h']

theorem Params.readShort_of_low_out (h : ¬ P.InBlob a) : P.readShort a = .error a := by
  simp only [Params.readShort, Params.readByte_of_out h]

theorem Params.readShort_of_high_out (h : P.InBlob a) (h' : ¬ P.InBlob (a + 1)) :
    P.readShort a = .error (a + 1) := by
  simp only [Params.readShort, Params.readByte_of_inBlob h, Params.readByte_of_out h']

end Reads

/-- Settles O9: it holds, by the range check of each byte read. -/
theorem readsAreRangeCheckedAndLittleEndian :
    Obligations.ReadsAreRangeCheckedAndLittleEndian := fun _ _ =>
  ⟨Params.readByte_of_inBlob,
    fun h => ⟨Params.readByte_of_out h, Params.readShort_of_low_out h⟩,
    Params.readShort_of_high_out,
    fun h h' => ⟨_, Params.readShort_of_inBlob h h', le16_toNat _ _⟩⟩

/-! ### The fetch of a one-byte operand -/

section AfterByte

variable {s : State} {ch : Channel} {p : Part} {go : Part → State}

theorem State.afterByte_of_inBlob (h : s.params.InBlob p.cursor) :
    s.afterByte ch p go = go { p with cursor := p.cursor + 1 } :=
  State.afterByte_of_lt h

theorem State.afterByte_of_out (h : ¬ s.params.InBlob p.cursor) :
    s.afterByte ch p go = s.raiseIn ch p p.cursor :=
  State.afterByte_of_ge (Nat.not_lt.1 h)

end AfterByte

/-! ### The step in a consume loop -/

theorem step_of_consuming {s : State} {c : Caller} {ch : Channel}
    (h : s.activity = .consuming c ch) : step s = consumeTurn s ch := by
  simp only [step, h]

/-- Where the six bytes at the cursor decode, the step is the meaning of what they decode to, the
cursor past the opcode byte. -/
theorem step_of_decode {s : State} {c : Caller} {ch : Channel} {p : Part} {i : Instr}
    {rest : List Byte} (h : s.Consuming c ch p) (hin : s.params.InBlob p.cursor)
    (hd : decode (s.params.window p.cursor) = .ok (i, rest)) :
    step s = exec i (s.putPart ch { p with cursor := p.cursor + 1 }) := by
  obtain ⟨ha, hp⟩ := h
  rw [step_of_consuming ha, consumeTurn, fetch_of_decode hp hin hd]

/-- The opcode fetch outside the blob takes the model fault with the Part as it was. -/
theorem step_of_opcode_out {s : State} {c : Caller} {ch : Channel} {p : Part}
    (h : s.Consuming c ch p) (hout : ¬ s.params.InBlob p.cursor) :
    step s = .next (s.raise p.cursor (some ch)) := by
  obtain ⟨ha, hp⟩ := h
  obtain ⟨hin, _⟩ | ⟨_, hfetch⟩ := State.fetch_cases hp
  · exact absurd hin hout
  · rw [step_of_consuming ha, consumeTurn, hfetch]
    simp only [State.raiseIn, State.putPart_self s hp]

/-- Settles O6: it holds, by the fetch of the six bytes. -/
theorem stepRunsTheDecodedInstruction : Obligations.StepRunsTheDecodedInstruction :=
  fun _ _ _ _ _ _ h hin hd => step_of_decode h hin hd

/-- Settles O7: it holds, by the definition of the fault and the range check of the opcode fetch. -/
theorem modelFaultEntry : Obligations.ModelFaultEntry :=
  ⟨fun _ _ _ _ => rfl, rfl, fun _ _ _ _ h hout => step_of_opcode_out h hout⟩

end Sys2Proof.Machine
end

section
/-! Placing an instruction (log 2): bytes filled into song memory read back where they were put, so
the placed bytes are the ones the next fetch decodes. -/

namespace Sys2Proof.Machine

open Sys2Proof

/-! ### Filled bytes read back -/

/-- Filling a list of bytes leaves every address outside the filled range alone. -/
theorem Memory.read_writeBytes_other (m : Memory) {a b : Word} {bytes : List Byte}
    (h : ∀ j < bytes.length, b ≠ a + BitVec.ofNat 16 j) :
    Memory.read (Memory.writeBytes m a bytes) b.toNat = Memory.read m b.toNat := by
  induction bytes generalizing m a with
  | nil => rfl
  | cons v rest ih =>
    have hhead : b.toNat ≠ a.toNat := fun e =>
      h 0 (Nat.succ_pos _) ((BitVec.eq_of_toNat_eq e).trans (BitVec.add_zero a).symm)
    have htail : ∀ j < rest.length, b ≠ a + 1 + BitVec.ofNat 16 j := fun j hj e =>
      h (j + 1) (Nat.succ_lt_succ hj) (by
        rw [e, BitVec.add_assoc, Nat.add_comm j 1, BitVec.ofNat_add]
        rfl)
    exact (ih _ htail).trans (Memory.read_write_other m hhead v)

/-- The address the first byte was filled at is not one of the at most 65535 after it. -/
theorem Word.ne_add_succ {a : Word} {j : Nat} (h : j < 65535) :
    a ≠ a + 1 + BitVec.ofNat 16 j := by
  intro e
  have hnat := congrArg BitVec.toNat e
  simp only [BitVec.ofNat_eq_ofNat, BitVec.toNat_add, BitVec.toNat_ofNat] at hnat
  have ha := a.isLt
  omega

theorem Params.bytesFrom_writeBytes (P : Params) {m : Memory} (hm : m.wf = true) {a : Word}
    {bytes : List Byte} (h : bytes.length ≤ 65536) :
    ({ P with song := Memory.writeBytes m a bytes } : Params).bytesFrom bytes.length a = bytes := by
  induction bytes generalizing m a with
  | nil => rfl
  | cons v rest ih =>
    have hlen : rest.length ≤ 65535 := Nat.le_of_succ_le_succ h
    have hother := Memory.read_writeBytes_other (Memory.write m a.toNat v) (a := a + 1) (b := a)
      (bytes := rest) fun j hj => Word.ne_add_succ (Nat.lt_of_lt_of_le hj hlen)
    have hhead : Memory.read (Memory.writeBytes m a (v :: rest)) a.toNat = v :=
      hother.trans (Memory.read_write_same hm a.toNat v)
    exact congrArg₂ List.cons hhead
      (ih (Memory.wf_write hm a.isLt v) (Nat.le_of_lt (Nat.lt_succ_of_le hlen)))

/-! ### The placed instruction -/

theorem Params.window_place {P : Params} (hP : P.song.wf = true) (a : Word) {bytes : List Byte}
    (h : bytes.length = 6) : (P.place a bytes).window a = bytes := by
  have hread := Params.bytesFrom_writeBytes (P.place a bytes) hP (a := a) (bytes := bytes) (by omega)
  rw [Params.window_eq_bytesFrom]
  exact h ▸ hread

/-- The blob is long enough for the placed bytes, so it holds the first of them. -/
theorem Params.inBlob_place (P : Params) (a : Word) {bytes : List Byte} (h : 0 < bytes.length) :
    (P.place a bytes).InBlob a := by
  have ha := a.isLt
  simp only [Params.InBlob, Params.place, Config.addressCount]
  omega

theorem decodeTableWord_eq_some {nbits w : Nat} {i : Instr}
    (h : decodeTableWord nbits w = some i) :
    ∃ rest, decode (tableBytes nbits w) = .ok (i, rest) := by
  unfold decodeTableWord at h
  split at h
  next j rest hd =>
    cases h
    exact ⟨rest, hd⟩
  next => cases h

/-- Settles O8: it holds, since the placed bytes are the six that the next fetch decodes. -/
theorem placedInstructionRunsNext : Obligations.PlacedInstructionRunsNext := by
  intro s nbits w i hsong hw
  obtain ⟨rest, hd⟩ := decodeTableWord_eq_some hw
  let p := placedPart (s.slots.get (placedAt s.activity).2)
  have hc : (s.withFetchWord nbits w).Consuming (placedAt s.activity).1 (placedAt s.activity).2 p :=
    ⟨rfl, PerChannel.get_set_same ..⟩
  have hwindow : (s.withFetchWord nbits w).params.window p.cursor = tableBytes nbits w :=
    Params.window_place hsong _ rfl
  exact ⟨_, _, p, hc,
    step_of_decode hc (Params.inBlob_place _ _ (Nat.succ_pos _)) (hwindow ▸ hd)⟩

end Sys2Proof.Machine
end

section
/-! REST and NOTE (44_notes_rests.md): REST's one write of the Part, NOTE's result where both its
reads are inside the blob, and its two faults. -/

namespace Sys2Proof.Machine

open Sys2Proof

section RestAndNote

variable {s : State} {c : Caller} {ch : Channel} {p : Part}

/-! ### REST (R93) -/

theorem exec_rest (h : s.Consuming c ch p) (v : BitVec 7) :
    exec (.rest v) s = .next ((s.putPart ch (p.beginRest v)).goto (.returned c ch true)) :=
  inConsume_of_consuming h.1 h.2 _

/-- REST writes the envelope's phase alone, and that only where the Part is not tied. -/
theorem Part.beginRest_eq (p : Part) (v : BitVec 7) :
    p.beginRest v = { p with
      remainingTicks := restTicks v
      env := { p.env with phase := if p.isTied then p.env.phase else .release } } := by
  unfold Part.beginRest
  cases p.isTied <;> rfl

/-! ### NOTE (R94) -/

theorem exec_note (h : s.Consuming c ch p) (pitch : BitVec 7) (d : Byte) (tie : Bool) :
    exec (.note pitch d tie) s =
      .next (s.afterByte ch (p.setPitch s.params pitch) fun q =>
        s.strike c ch (q.beginNote d) tie) :=
  inConsume_of_consuming h.1 h.2 _

/-- A NOTE's Part past the duration byte, struck and not yet checked for the tie. -/
def Part.struck (P : Params) (p : Part) (pitch : BitVec 7) (d : Byte) : Part :=
  Part.beginNote { p.setPitch P pitch with cursor := p.cursor + 1 } d

theorem exec_note_of_inBlob (h : s.Consuming c ch p) (hin : s.params.InBlob p.cursor)
    (pitch : BitVec 7) (d : Byte) (tie : Bool) :
    exec (.note pitch d tie) s = .next (s.strike c ch (p.struck s.params pitch d) tie) := by
  rw [exec_note h, State.afterByte_of_inBlob (p := p.setPitch s.params pitch) hin]
  rfl

theorem State.strike_of_inBlob (h : s.params.InBlob p.cursor) (tie : Bool) :
    s.strike c ch p tie = s.sound c ch (p.tieCheck tie) := by
  simp only [State.strike, Params.readByte_of_inBlob h]

theorem State.strike_of_out (h : ¬ s.params.InBlob p.cursor) (tie : Bool) :
    s.strike c ch p tie = s.raiseIn ch p p.cursor := by
  simp only [State.strike, Params.readByte_of_out h]

/-- NOTE's last writes: its Part, its two events and the end of the consume loop. -/
theorem State.sound_eq (s : State) (c : Caller) (ch : Channel) (p : Part) :
    s.sound c ch p = { s with
      slots := s.slots.set ch (some p)
      trace := s.trace ++ [.setTone ch p.toneOut, .setVolume ch p.volOut]
      sink := { s.sink with
        tone := s.sink.tone.set ch p.toneOut
        volume := s.sink.volume.set ch p.volOut }
      activity := .returned c ch true } :=
  congrArg (fun tr => ({ s.sound c ch p with trace := tr } : State)) (List.append_assoc s.trace _ _)

/-! The tie check writes the cursor and the tie flag, and nothing else. -/

theorem Part.tieCheck_eq (p : Part) (tie : Bool) :
    p.tieCheck tie =
      { p with cursor := p.cursor + (if tie then 1 else 0), isTied := tie } := by
  cases tie
  · exact congrArg (fun a => { p with cursor := a, isTied := false }) (BitVec.add_zero _).symm
  · rfl

/-- The envelope and the LFO of a struck Part are retriggered unless it was tied. -/
theorem Part.struck_of_tied (P : Params) (pitch : BitVec 7) (d : Byte) (ht : p.isTied = true) :
    (p.struck P pitch d).env = p.env ∧ (p.struck P pitch d).lfo = p.lfo := by
  simp [Part.struck, Part.beginNote, Part.setPitch, ht]

theorem Part.struck_of_untied (P : Params) (pitch : BitVec 7) (d : Byte) (ht : p.isTied = false) :
    (p.struck P pitch d).env = p.env.attack ∧ (p.struck P pitch d).lfo = p.lfo.restart := by
  simp [Part.struck, Part.beginNote, Part.setPitch, ht]

end RestAndNote

/-- Settles O13: it holds, by REST's write of the Part. -/
theorem restResult : Obligations.RestResult := by
  intro s c ch p v h
  refine ⟨restTicks v, restTicks_toNat v, ?_⟩
  rw [exec_rest h, Part.beginRest_eq]
  rfl

/-- Settles O14: it holds for the struck Part after its tie check. -/
theorem noteResult : Obligations.NoteResult := by
  intro s c ch p pitch d tie h hin hin'
  have hcursor : p.cursor + 1 + (if tie then 1 else 0) = p.cursor + (if tie then 2 else 1) := by
    cases tie
    · exact BitVec.add_zero _
    · exact BitVec.add_assoc ..
  refine ⟨(p.struck s.params pitch d).tieCheck tie, ?_⟩
  rw [exec_note_of_inBlob h hin, State.strike_of_inBlob hin', State.sound_eq,
    Part.tieCheck_eq]
  exact ⟨rfl, rfl, octaveOf_toNat pitch, rfl, rfl, hcursor,
    Part.struck_of_tied s.params pitch d, Part.struck_of_untied s.params pitch d,
    rfl, rfl, rfl, rfl, rfl⟩

/-- Settles O15: it holds, by the range check of each of NOTE's two reads. -/
theorem noteFaultsWhereItReads : Obligations.NoteFaultsWhereItReads := by
  intro s c ch p pitch d tie h
  refine ⟨fun hout => ?duration, fun hin hout => ?peek⟩
  case duration =>
    rw [exec_note h, State.afterByte_of_out (p := p.setPitch s.params pitch) hout]
    rfl
  case peek =>
    rw [exec_note_of_inBlob h hin, State.strike_of_out hout]
    rfl

end Sys2Proof.Machine
end

section
/-! SET_PATCH (45_commands.md R95, 40_envelope.md R60): where the scan of the patch table stops,
what loading a record leaves, and that the stride of 7 visits every address. -/

namespace Sys2Proof.Machine

open Sys2Proof

/-! ### The records the scan probes -/

/-- The address of the patch table's record `k`, addresses wrapping. -/
def recordAt (table : Word) (k : Nat) : Word := table + BitVec.ofNat 16 (7 * k)

theorem recordAt_zero (table : Word) : recordAt table 0 = table := BitVec.add_zero table

theorem recordAt_succ (table : Word) (k : Nat) :
    recordAt (table + Config.patchRecordSize) k = recordAt table (k + 1) := by
  unfold recordAt
  rw [BitVec.add_assoc, Nat.mul_succ, Nat.add_comm, BitVec.ofNat_add]
  rfl

/-- The stride comes round after as many records as there are addresses. -/
theorem recordAt_add_addressCount (table : Word) (k : Nat) :
    recordAt table (k + Config.addressCount) = recordAt table k := by
  unfold recordAt
  rw [Nat.mul_add, BitVec.ofNat_add]
  exact congrArg (table + ·) (BitVec.add_zero _)

/-- The stride of 7 visits every address: 28087 is the inverse of 7 modulo 65536. -/
theorem exists_recordAt_eq (table a : Word) : ∃ k < Config.addressCount, recordAt table k = a := by
  refine ⟨((a - table) * 28087).toNat, BitVec.isLt _, ?_⟩
  have hinv : (7 : Word) * 28087 = 1#16 := by decide
  rw [recordAt, BitVec.ofNat_mul, BitVec.ofNat_toNat, BitVec.setWidth_eq]
  change table + 7 * ((a - table) * 28087) = a
  rw [BitVec.mul_comm (a - table), ← BitVec.mul_assoc, hinv, BitVec.one_mul, BitVec.add_comm,
    BitVec.sub_add_cancel]

/-- The scan for patch `n` goes on past a record that starts here. -/
def Params.Passes (P : Params) (n : Byte) (a : Word) : Prop :=
  P.InBlob a ∧ P.songByte a ≠ 0xFF ∧ P.songByte a ≠ n

section Scan

variable {P : Params} {n : Byte}

theorem patchScan_of_passed {table : Word} {k : Nat}
    (h : ∀ j < k, P.Passes n (recordAt table j)) (fuel : Nat) :
    patchScan P n (fuel + k) table = patchScan P n fuel (recordAt table k) := by
  induction k generalizing table with
  | zero => rw [recordAt_zero, Nat.add_zero]
  | succ k ih =>
    have hfirst : P.Passes n table := recordAt_zero table ▸ h 0 (Nat.succ_pos k)
    obtain ⟨hin, hsentinel, hn⟩ := hfirst
    have hrest : ∀ j < k, P.Passes n (recordAt (table + Config.patchRecordSize) j) :=
      fun j hj => recordAt_succ table j ▸ h (j + 1) (Nat.succ_lt_succ hj)
    rw [← Nat.add_assoc, patchScan_step hin hsentinel hn, ih hrest, recordAt_succ]

/-- The first record the scan does not pass is among the first 65536, so it is reached. -/
theorem exists_patchScan_reaches {table : Word} {k : Nat}
    (h : ∀ j < k, P.Passes n (recordAt table j)) (hk : ¬ P.Passes n (recordAt table k)) :
    ∃ fuel, patchScan P n Config.addressCount table =
      patchScan P n (fuel + 1) (recordAt table k) := by
  have hlt : k < Config.addressCount := by
    by_contra hge
    obtain ⟨j, rfl⟩ := Nat.exists_eq_add_of_le' (Nat.not_lt.1 hge)
    rw [recordAt_add_addressCount] at hk
    exact hk (h j (by rw [Config.addressCount]; omega))
  obtain ⟨fuel, hfuel⟩ := Nat.exists_eq_add_of_lt hlt
  refine ⟨fuel, ?_⟩
  rw [← patchScan_of_passed h, hfuel]
  congr 1
  omega

/-! The probe at which the scan stops. -/

theorem patchScan_found {a : Word} (hin : P.InBlob a) (hn : P.songByte a = n) (hne : n ≠ 0xFF)
    (fuel : Nat) : patchScan P n (fuel + 1) a = .found a := by
  have hsentinel : P.songByte a ≠ Config.patchSentinel := hn ▸ hne
  simp only [patchScan, Params.readByte_of_inBlob hin, if_neg hsentinel, if_pos hn]

theorem patchScan_sentinel {a : Word} (hin : P.InBlob a) (h : P.songByte a = 0xFF) (fuel : Nat) :
    patchScan P n (fuel + 1) a = .sentinel := by
  have hsentinel : P.songByte a = Config.patchSentinel := h
  simp only [patchScan, Params.readByte_of_inBlob hin, if_pos hsentinel]

theorem patchScan_out {a : Word} (hout : ¬ P.InBlob a) (fuel : Nat) :
    patchScan P n (fuel + 1) a = .out a := by
  simp only [patchScan, Params.readByte_of_out hout]

/-- A record that is not passed stops the scan. -/
theorem patchScan_ne_endless {a : Word} (h : ¬ P.Passes n a) (fuel : Nat) :
    patchScan P n (fuel + 1) a ≠ .endless := by
  by_cases hin : P.InBlob a
  · by_cases hsentinel : P.songByte a = 0xFF
    · simp [patchScan_sentinel hin hsentinel]
    · have hn : P.songByte a = n := by
        by_contra hn
        exact h ⟨hin, hsentinel, hn⟩
      simp [patchScan_found hin hn (hn ▸ hsentinel)]
  · simp [patchScan_out hin]

/-- The scan gives up exactly where it passes every address of the address space. -/
theorem patchScan_eq_endless_iff (table : Word) :
    patchScan P n Config.addressCount table = .endless ↔ ∀ a, P.Passes n a := by
  constructor
  · intro h
    by_contra hnot
    obtain ⟨a, ha⟩ := not_forall.1 hnot
    obtain ⟨k, _, rfl⟩ := exists_recordAt_eq table a
    classical
    have hex : ∃ k, ¬ P.Passes n (recordAt table k) := ⟨k, ha⟩
    obtain ⟨fuel, hfuel⟩ := exists_patchScan_reaches
      (fun j hj => not_not.1 (Nat.find_min hex hj)) (Nat.find_spec hex)
    exact patchScan_ne_endless (Nat.find_spec hex) fuel (hfuel ▸ h)
  · intro h
    have hall := patchScan_of_passed (table := table) (k := Config.addressCount)
      (fun j _ => h (recordAt table j)) 0
    rwa [Nat.zero_add] at hall

end Scan

/-! ### Loading a record (30_encoding.md R58) -/

section Load

variable {P : Params} {r : Word} {m : Nat} {write : Byte → Envelope → Envelope}
  {rest : List (Byte → Envelope → Envelope)} {e : Envelope}

theorem loadPatch_of_inBlob (h : P.InBlob (r + BitVec.ofNat 16 m)) :
    loadPatch P (write :: rest) (r + BitVec.ofNat 16 m) e =
      loadPatch P rest (r + BitVec.ofNat 16 (m + 1))
        (write (P.songByte (r + BitVec.ofNat 16 m)) e) := by
  rw [loadPatch, Params.readByte_of_inBlob h, BitVec.ofNat_add, ← BitVec.add_assoc]
  rfl

theorem loadPatch_of_out (h : ¬ P.InBlob (r + BitVec.ofNat 16 m)) :
    loadPatch P (write :: rest) (r + BitVec.ofNat 16 m) e =
      (e, some (r + BitVec.ofNat 16 m)) := by
  rw [loadPatch, Params.readByte_of_out h]

/-- What these writers make of the record at `r`, the first of them writing its byte `m`. -/
def applyPatch (P : Params) (r : Word) :
    Nat → List (Byte → Envelope → Envelope) → Envelope → Envelope
  | _, [], e => e
  | m, write :: rest, e =>
    applyPatch P r (m + 1) rest (write (P.songByte (r + BitVec.ofNat 16 m)) e)

/-- The writers whose bytes are inside the blob are applied before the others read theirs. -/
theorem loadPatch_append {done : List (Byte → Envelope → Envelope)}
    (h : ∀ j, m ≤ j → j < m + done.length → P.InBlob (r + BitVec.ofNat 16 j)) :
    loadPatch P (done ++ rest) (r + BitVec.ofNat 16 m) e =
      loadPatch P rest (r + BitVec.ofNat 16 (m + done.length)) (applyPatch P r m done e) := by
  induction done generalizing m e with
  | nil => rfl
  | cons write done ih =>
    rw [List.length_cons, Nat.add_comm done.length 1, ← Nat.add_assoc] at h ⊢
    rw [List.cons_append, loadPatch_of_inBlob (h m (Nat.le_refl m) (by omega)),
      ih fun j hj hj' => h j (Nat.le_of_succ_le hj) hj']
    rfl

/-- With the record inside the blob every parameter is loaded. -/
theorem loadPatch_patchWriters (h : ∀ m ≤ 6, P.InBlob (r + BitVec.ofNat 16 m)) :
    loadPatch P patchWriters (r + 1) e =
      ({ e with
        attackLevel := P.songByte (r + 1)
        attackRate := P.songByte (r + 2)
        decayRate := P.songByte (r + 3)
        sustainLevel := P.songByte (r + 4)
        sustainRate := P.songByte (r + 5)
        releaseRate := P.songByte (r + 6) }, none) :=
  loadPatch_append (m := 1) (done := patchWriters) (rest := [])
    fun j _ hj => h j (Nat.le_of_lt_succ hj)

/-- The envelope when byte `m` of the record at `r` is about to be read: the parameters of the bytes
before it are loaded. -/
def Envelope.loadedBelow (P : Params) (r : Word) (m : Nat) (e : Envelope) : Envelope :=
  { e with
    attackLevel := if 1 < m then P.songByte (r + 1) else e.attackLevel
    attackRate := if 2 < m then P.songByte (r + 2) else e.attackRate
    decayRate := if 3 < m then P.songByte (r + 3) else e.decayRate
    sustainLevel := if 4 < m then P.songByte (r + 4) else e.sustainLevel
    sustainRate := if 5 < m then P.songByte (r + 5) else e.sustainRate }

theorem applyPatch_take (h1 : 1 ≤ m) (h6 : m ≤ 6) :
    applyPatch P r 1 (patchWriters.take (m - 1)) e = e.loadedBelow P r m := by
  match m, h1, h6 with
  | 1, _, _ | 2, _, _ | 3, _, _ | 4, _, _ | 5, _, _ | 6, _, _ => rfl

/-- With byte `m` of the record the first outside the blob, the load stops at it. -/
theorem loadPatch_patchWriters_out (h1 : 1 ≤ m) (h6 : m ≤ 6)
    (hin : ∀ m' < m, P.InBlob (r + BitVec.ofNat 16 m'))
    (hout : ¬ P.InBlob (r + BitVec.ofNat 16 m)) :
    loadPatch P patchWriters (r + 1) e =
      (e.loadedBelow P r m, some (r + BitVec.ofNat 16 m)) := by
  have hlength : 1 + (patchWriters.take (m - 1)).length = m := by
    simp only [List.length_take, patchWriters, List.length_cons, List.length_nil]
    omega
  have hload := loadPatch_append (P := P) (r := r) (m := 1) (e := e)
    (done := patchWriters.take (m - 1)) (rest := patchWriters.drop (m - 1))
    fun j _ hj => hin j (hlength ▸ hj)
  have hnext : m - 1 < patchWriters.length := Nat.lt_of_lt_of_le (by omega) h6
  rw [List.take_append_drop, hlength, applyPatch_take h1 h6, List.drop_eq_getElem_cons hnext,
    loadPatch_of_out hout] at hload
  exact hload

end Load

/-! ### The meaning -/

section Meaning

variable {s : State} {c : Caller} {ch : Channel} {p : Part} {n : Byte}

theorem exec_setPatch (h : s.Consuming c ch p) (n : Byte) :
    exec (.setPatch n) s = .next (s.afterByte ch p fun q => s.usePatch ch q n) :=
  inConsume_of_consuming h.1 h.2 _

theorem exec_setPatch_of_inBlob (h : s.Consuming c ch p) (hin : s.params.InBlob p.cursor) :
    exec (.setPatch n) s = .next (s.usePatch ch { p with cursor := p.cursor + 1 } n) := by
  rw [exec_setPatch h, State.afterByte_of_inBlob hin]

theorem State.usePatch_of_sentinel
    (h : patchScan s.params n Config.addressCount s.patchTableAddress = .sentinel) :
    s.usePatch ch p n = s.putPart ch p := by
  simp only [State.usePatch, envSet, h]

theorem State.usePatch_of_out {a : Word}
    (h : patchScan s.params n Config.addressCount s.patchTableAddress = .out a) :
    s.usePatch ch p n = s.raiseIn ch p a := by
  simp only [State.usePatch, envSet, h]

theorem State.usePatch_of_endless
    (h : patchScan s.params n Config.addressCount s.patchTableAddress = .endless) :
    s.usePatch ch p n = (s.putPart ch p).goto .hung := by
  simp only [State.usePatch, envSet, h]

theorem State.usePatch_of_found {r : Word} {e : Envelope}
    (h : patchScan s.params n Config.addressCount s.patchTableAddress = .found r)
    (hload : loadPatch s.params patchWriters (r + 1) p.env = (e, none)) :
    s.usePatch ch p n = s.putPart ch { p with env := e } := by
  simp only [State.usePatch, envSet, h, hload]

theorem State.usePatch_of_found_out {r a : Word} {e : Envelope}
    (h : patchScan s.params n Config.addressCount s.patchTableAddress = .found r)
    (hload : loadPatch s.params patchWriters (r + 1) p.env = (e, some a)) :
    s.usePatch ch p n = s.raiseIn ch { p with env := e } a := by
  simp only [State.usePatch, envSet, h, hload]

/-- SET_PATCH hangs only where its scan never ends. -/
theorem State.usePatch_activity (ha : s.activity = .consuming c ch)
    (h : patchScan s.params n Config.addressCount s.patchTableAddress ≠ .endless) :
    (s.usePatch ch p n).activity ≠ .hung := by
  cases hscan : patchScan s.params n Config.addressCount s.patchTableAddress with
  | endless => exact absurd hscan h
  | sentinel => simp [State.usePatch_of_sentinel hscan, ha]
  | out a => simp [State.usePatch_of_out hscan]
  | found r =>
    obtain ⟨e, hload⟩ | ⟨e, a, hload⟩ :
        (∃ e, loadPatch s.params patchWriters (r + 1) p.env = (e, none)) ∨
          ∃ e a, loadPatch s.params patchWriters (r + 1) p.env = (e, some a) := by
      generalize loadPatch s.params patchWriters (r + 1) p.env = result
      obtain ⟨e, _ | a⟩ := result
      · exact .inl ⟨e, rfl⟩
      · exact .inr ⟨e, a, rfl⟩
    · simp [State.usePatch_of_found hscan hload, ha]
    · simp [State.usePatch_of_found_out hscan hload]

end Meaning

/-- Settles O16: it holds, by the scan's stop at record `k` and the load of all six bytes. -/
theorem setPatchLoadsTheFirstMatch : Obligations.SetPatchLoadsTheFirstMatch := by
  intro s c ch p n k r h hin hne hpass hr hrecord hn
  subst hr
  have hr0 : s.params.InBlob (recordAt s.patchTableAddress k) :=
    BitVec.add_zero (recordAt s.patchTableAddress k) ▸ hrecord 0 (Nat.zero_le _)
  obtain ⟨fuel, hscan⟩ := exists_patchScan_reaches hpass fun hk => hk.2.2 hn
  rw [exec_setPatch_of_inBlob h hin, State.usePatch_of_found
    (hscan.trans (patchScan_found hr0 hn hne fuel)) (loadPatch_patchWriters hrecord)]
  rfl

/-- Settles O17: it holds, by the scan's stop at the sentinel. -/
theorem setPatchMissLeavesTheEnvelope : Obligations.SetPatchMissLeavesTheEnvelope := by
  intro s c ch p n k h hin hpass hk hsentinel
  obtain ⟨fuel, hscan⟩ := exists_patchScan_reaches hpass fun hp => hp.2.1 hsentinel
  rw [exec_setPatch_of_inBlob h hin,
    State.usePatch_of_sentinel (hscan.trans (patchScan_sentinel hk hsentinel fuel))]
  rfl

/-- Settles O18: it holds, by the range check of the operand, of the scan's probe and of the
record's byte. -/
theorem setPatchFaultsWhereItReads : Obligations.SetPatchFaultsWhereItReads := by
  intro s c ch p n h
  refine ⟨fun hout => ?operand, fun k r hin hpass hr => ⟨fun hout => ?number,
    fun m h1 h6 hne hr0 hn hbelow hout => ?parameter⟩⟩
  case operand => rw [exec_setPatch h, State.afterByte_of_out hout]
  case number =>
    subst hr
    obtain ⟨fuel, hscan⟩ := exists_patchScan_reaches hpass fun hk => hout hk.1
    rw [exec_setPatch_of_inBlob h hin,
      State.usePatch_of_out (hscan.trans (patchScan_out hout fuel))]
  case parameter =>
    subst hr
    obtain ⟨fuel, hscan⟩ := exists_patchScan_reaches hpass fun hk => hk.2.2 hn
    rw [exec_setPatch_of_inBlob h hin, State.usePatch_of_found_out
      (hscan.trans (patchScan_found hr0 hn hne fuel))
      (loadPatch_patchWriters_out h1 h6 hbelow hout)]
    rfl

/-- Settles O19: it holds, since the stride of 7 probes every address before the scan gives up. -/
theorem setPatchHangsExactlyWhereTheScanNeverEnds :
    Obligations.SetPatchHangsExactlyWhereTheScanNeverEnds := by
  intro s c ch p n h hin
  refine ⟨fun hall => ?hangs, fun ⟨a, ha⟩ => ?ends⟩
  case hangs =>
    rw [exec_setPatch_of_inBlob h hin,
      State.usePatch_of_endless ((patchScan_eq_endless_iff s.patchTableAddress).2 hall)]
    rfl
  case ends =>
    refine ⟨_, exec_setPatch_of_inBlob h hin, State.usePatch_activity h.1 fun hscan => ?_⟩
    obtain ⟨hblob, hsentinel, hn⟩ := (patchScan_eq_endless_iff s.patchTableAddress).1 hscan a
    obtain hout | heq | heq := ha
    · exact hout hblob
    · exact hsentinel heq
    · exact hn heq

end Sys2Proof.Machine
end

section
/-! The commands with one operand byte (45_commands.md R96, R99, R100, R103, 42_repeat_stack.md
R80): what they share, as exec past the opcode byte and as the step at it, and then each one's
write. -/

namespace Sys2Proof.Machine

open Sys2Proof

/-! ### What they share -/

/-- Instruction `i` fetches one operand byte and then goes on so with the Part past it. -/
def TakesByte (i : Instr) (go : State → Channel → Part → State) : Prop :=
  ∀ ⦃s : State⦄ ⦃c : Caller⦄ ⦃ch : Channel⦄ ⦃p : Part⦄, s.Consuming c ch p →
    exec i s = .next (s.afterByte ch p (go s ch))

section TakesByte

variable {i : Instr} {go : State → Channel → Part → State} {s : State} {c : Caller} {ch : Channel}
  {p : Part}

theorem TakesByte.exec_of_inBlob (hi : TakesByte i go) (h : s.Consuming c ch p)
    (hin : s.params.InBlob p.cursor) :
    exec i s = .next (go s ch { p with cursor := p.cursor + 1 }) := by
  rw [hi h, State.afterByte_of_inBlob hin]

theorem TakesByte.exec_of_out (hi : TakesByte i go) (h : s.Consuming c ch p)
    (hout : ¬ s.params.InBlob p.cursor) : exec i s = .next (s.raiseIn ch p p.cursor) := by
  rw [hi h, State.afterByte_of_out hout]

/-- The step at the instruction's two bytes: the operand is fetched after the opcode byte. -/
theorem TakesByte.step_of_bytesAt (hi : TakesByte i go) (h : s.Consuming c ch p) {op b : Byte}
    (hb : s.BytesAt p.cursor [op, b])
    (hd : ∀ tail, decode (op :: b :: tail) = .ok (i, tail)) :
    step s = .next (go (s.putPart ch { p with cursor := p.cursor + 1 }) ch
      { p with cursor := p.cursor + 2 }) := by
  have ⟨_, _, hin, _⟩ := hb
  have hexec := hi.exec_of_inBlob (h.putPart { p with cursor := p.cursor + 1 }) hin
  have hcursor : p.cursor + 1 + 1 = p.cursor + 2 := BitVec.add_assoc ..
  rw [Machine.step_of_bytesAt h hb (by simp) hd, hexec, hcursor]

end TakesByte

/-! ### SET_VOLUME (R96) -/

theorem setVolume_takesByte (b : Byte) : TakesByte (.setVolume b) fun s ch q =>
    s.putPart ch { q with channelVolume := clampVolume b } :=
  fun _ _ _ _ h => inConsume_of_consuming h.1 h.2 _

theorem clampVolume_eq_ofNat (b : Byte) : clampVolume b = BitVec.ofNat 8 (min b.toNat 15) := by
  unfold clampVolume
  split
  next h =>
    have hb : b.toNat ≤ 15 := Nat.le_of_lt h
    rw [Nat.min_eq_left hb, BitVec.ofNat_toNat, BitVec.setWidth_eq]
  next h =>
    have hb : 15 ≤ b.toNat := Nat.not_lt.1 h
    rw [Nat.min_eq_right hb]
    rfl

/-- Settles O20: it holds, by the shared fetch of the operand byte. -/
theorem setVolumeResult : Obligations.SetVolumeResult := by
  intro s c ch p b h
  rw [← clampVolume_eq_ofNat]
  refine ⟨fun hb => ?_, (setVolume_takesByte b).exec_of_inBlob h,
    (setVolume_takesByte b).exec_of_out h⟩
  rw [(setVolume_takesByte b).step_of_bytesAt h hb fun _ => rfl, State.putPart_putPart]
  rfl

/-! ### SET_NOISE and SET_MIX (R99, R100) -/

theorem setNoise_takesByte (b : Byte) : TakesByte (.setNoise b) fun s ch q =>
    (s.putPart ch q).emit (.setNoise b) :=
  fun _ _ _ _ h => inConsume_of_consuming h.1 h.2 _

theorem setMix_takesByte (b : Byte) : TakesByte (.setMix b) fun s ch q =>
    (s.putPart ch q).emit (.setMode ch (mixMode b)) :=
  fun _ _ _ _ h => inConsume_of_consuming h.1 h.2 _

/-- Settles O22: it holds, by the shared fetch of the operand byte. -/
theorem setNoiseAndSetMixResult : Obligations.SetNoiseAndSetMixResult := by
  intro s c ch p b h
  refine ⟨fun hb => ?noiseStep, fun hb => ⟨mixMode b, rfl, ?mixStep⟩,
    (setNoise_takesByte b).exec_of_inBlob h,
    fun hin => ⟨mixMode b, rfl, (setMix_takesByte b).exec_of_inBlob h hin⟩,
    fun hout => ⟨(setNoise_takesByte b).exec_of_out h hout,
      (setMix_takesByte b).exec_of_out h hout⟩⟩
  case noiseStep =>
    rw [(setNoise_takesByte b).step_of_bytesAt h hb fun _ => rfl, State.putPart_putPart]
    rfl
  case mixStep =>
    rw [(setMix_takesByte b).step_of_bytesAt h hb fun _ => rfl, State.putPart_putPart]
    rfl

/-! ### LFO_ENABLE (R103) -/

theorem lfoEnable_takesByte (b : Byte) : TakesByte (.lfoEnable b) fun s ch q =>
    s.putPart ch { q with lfo := q.lfo.setEnable (enableBit b) } :=
  fun _ _ _ _ h => inConsume_of_consuming h.1 h.2 _

theorem enableBit_eq_decide (b : Byte) : enableBit b = decide (b ≠ 0) :=
  (decide_not (p := b = 0)).symm ▸ rfl

/-- LfoSetEnable in numbers: the depth counter starts at half the depth (41_pitch_lfo.md R72). -/
theorem Lfo.setEnable_eq (l : Lfo) (b : Byte) :
    l.setEnable (enableBit b) = { l with
      enabled := decide (b ≠ 0)
      waitCount := l.delay
      depthCount := BitVec.ofNat 8 (l.depth.toNat / 2)
      currentDisplacement := l.displacement
      effect := 0 } := by
  have hhalf : l.depth >>> 1 = BitVec.ofNat 8 (l.depth.toNat / 2) := by
    have hdepth := l.depth.isLt
    refine BitVec.eq_of_toNat_eq ?_
    rw [BitVec.toNat_ushiftRight, Nat.shiftRight_eq_div_pow, BitVec.toNat_ofNat]
    omega
  rw [← hhalf, ← enableBit_eq_decide]
  rfl

/-- Settles O25: it holds, by the shared fetch of the operand byte. -/
theorem lfoEnableResult : Obligations.LfoEnableResult := by
  intro s c ch p b h
  rw [← Lfo.setEnable_eq]
  refine ⟨fun hb => ?_, (lfoEnable_takesByte b).exec_of_inBlob h,
    (lfoEnable_takesByte b).exec_of_out h⟩
  rw [(lfoEnable_takesByte b).step_of_bytesAt h hb fun _ => rfl, State.putPart_putPart]
  rfl

/-! ### REPEAT_START (42_repeat_stack.md R77, R80) -/

theorem repeatStart_takesByte (count : Byte) : TakesByte (.repeatStart count) fun s ch q =>
    s.putPart ch { q with rs := rsStart q.rs count q.cursor } :=
  fun _ _ _ _ h => inConsume_of_consuming h.1 h.2 _

theorem rsStart_of_lt {rs : List Frame} (h : rs.length < 8) (count : Byte) (a : Word) :
    rsStart rs count a = ⟨a, false, 0, count⟩ :: rs := if_pos h

theorem rsStart_of_ge {rs : List Frame} (h : 8 ≤ rs.length) (count : Byte) (a : Word) :
    rsStart rs count a = rs := if_neg (Nat.not_lt.2 h)

/-- Settles O26: it holds, by the shared fetch of the operand byte and the push's test for room. -/
theorem repeatStartResult : Obligations.RepeatStartResult := by
  intro s c ch p count h
  have hexec := (repeatStart_takesByte count).exec_of_inBlob h
  refine ⟨fun hb => ?step, fun hin hroom => ?push, fun hin hfull => ?drop,
    (repeatStart_takesByte count).exec_of_out h⟩
  case step =>
    rw [(repeatStart_takesByte count).step_of_bytesAt h hb fun _ => rfl, State.putPart_putPart]
    rfl
  case push =>
    rw [hexec hin, rsStart_of_lt hroom]
    rfl
  case drop =>
    rw [hexec hin, rsStart_of_ge hfull]
    rfl

end Sys2Proof.Machine
end

section
/-! SET_LFO (45_commands.md R102): its operand fetches one after another, each of which can fault.
-/

namespace Sys2Proof.Machine

open Sys2Proof

/-- A Part past `m` operand bytes. -/
def Part.advance (p : Part) (m : Nat) : Part := { p with cursor := p.cursor + BitVec.ofNat 16 m }

theorem Part.advance_zero (p : Part) : p.advance 0 = p := by
  unfold Part.advance
  rw [BitVec.add_zero]

theorem Part.advance_add (p : Part) (m k : Nat) :
    ({ p.advance m with cursor := (p.advance m).cursor + BitVec.ofNat 16 k } : Part) =
      p.advance (m + k) := by
  unfold Part.advance
  rw [BitVec.add_assoc, BitVec.ofNat_add]

section SetLfo

variable {s : State} {c : Caller} {ch : Channel} {p : Part} {m : Nat} {go : Part → State}

theorem State.afterByte_advance (h : s.params.InBlob (p.cursor + BitVec.ofNat 16 m)) :
    s.afterByte ch (p.advance m) go = go (p.advance (m + 1)) :=
  (State.afterByte_of_inBlob (p := p.advance m) h).trans (congrArg go (p.advance_add m 1))

theorem State.afterByte_advance_out (h : ¬ s.params.InBlob (p.cursor + BitVec.ofNat 16 m)) :
    s.afterByte ch (p.advance m) go =
      s.raiseIn ch (p.advance m) (p.cursor + BitVec.ofNat 16 m) :=
  State.afterByte_of_out (p := p.advance m) h

theorem Word.add_ofNat_succ (a : Word) (m : Nat) :
    a + BitVec.ofNat 16 m + 1 = a + BitVec.ofNat 16 (m + 1) := by
  rw [BitVec.add_assoc, BitVec.ofNat_add]
  rfl

theorem State.afterShort_advance (h : s.params.InBlob (p.cursor + BitVec.ofNat 16 m))
    (h' : s.params.InBlob (p.cursor + BitVec.ofNat 16 (m + 1))) :
    s.afterShort ch (p.advance m) go = go (p.advance (m + 2)) :=
  (State.afterShort_of_inBlob (p := p.advance m) h (Word.add_ofNat_succ p.cursor m ▸ h')).trans
    (congrArg go (p.advance_add m 2))

theorem State.afterShort_advance_low_out
    (h : ¬ s.params.InBlob (p.cursor + BitVec.ofNat 16 m)) :
    s.afterShort ch (p.advance m) go =
      s.raiseIn ch (p.advance m) (p.cursor + BitVec.ofNat 16 m) :=
  State.afterShort_of_low_out (p := p.advance m) h

theorem State.afterShort_advance_high_out (h : s.params.InBlob (p.cursor + BitVec.ofNat 16 m))
    (h' : ¬ s.params.InBlob (p.cursor + BitVec.ofNat 16 (m + 1))) :
    s.afterShort ch (p.advance m) go =
      s.raiseIn ch (p.advance m) (p.cursor + BitVec.ofNat 16 (m + 1)) :=
  (State.afterShort_of_high_out (p := p.advance m) h
    (Word.add_ofNat_succ p.cursor m ▸ h')).trans
    (congrArg (s.raiseIn ch (p.advance m)) (Word.add_ofNat_succ p.cursor m))

theorem exec_setLfo (h : s.Consuming c ch p) (delay speed depth : Byte) (x : Word) :
    exec (.setLfo delay speed depth x) s =
      .next (s.afterByte ch (p.advance 0) fun p1 => s.afterByte ch p1 fun p2 =>
        s.afterByte ch p2 fun p3 => s.afterShort ch p3 fun p4 =>
          s.putPart ch { p4 with lfo := p4.lfo.setParameter delay speed depth x }) := by
  rw [p.advance_zero]
  exact inConsume_of_consuming h.1 h.2 _

theorem exec_setLfo_of_inBlob (h : s.Consuming c ch p) (delay speed depth : Byte) (x : Word)
    (hin : ∀ m ≤ 4, s.params.InBlob (p.cursor + BitVec.ofNat 16 m)) :
    exec (.setLfo delay speed depth x) s = .next (s.putPart ch
      { p with cursor := p.cursor + 5, lfo := p.lfo.setParameter delay speed depth x }) := by
  rw [exec_setLfo h, State.afterByte_advance (hin 0 (by omega)),
    State.afterByte_advance (hin 1 (by omega)), State.afterByte_advance (hin 2 (by omega)),
    State.afterShort_advance (hin 3 (by omega)) (hin 4 (by omega))]
  rfl

/-- SET_LFO faults at its first operand byte outside the blob, past the one-byte operands before
it. -/
theorem exec_setLfo_of_out (h : s.Consuming c ch p) (delay speed depth : Byte) (x : Word)
    (hm : m ≤ 4) (hin : ∀ m' < m, s.params.InBlob (p.cursor + BitVec.ofNat 16 m'))
    (hout : ¬ s.params.InBlob (p.cursor + BitVec.ofNat 16 m)) :
    exec (.setLfo delay speed depth x) s =
      .next (s.raiseIn ch (p.advance (min m 3)) (p.cursor + BitVec.ofNat 16 m)) := by
  rw [exec_setLfo h]
  match m, hm with
  | 0, _ => rw [State.afterByte_advance_out hout]; rfl
  | 1, _ => rw [State.afterByte_advance (hin 0 (by omega)), State.afterByte_advance_out hout]; rfl
  | 2, _ =>
    rw [State.afterByte_advance (hin 0 (by omega)), State.afterByte_advance (hin 1 (by omega)),
      State.afterByte_advance_out hout]
    rfl
  | 3, _ =>
    rw [State.afterByte_advance (hin 0 (by omega)), State.afterByte_advance (hin 1 (by omega)),
      State.afterByte_advance (hin 2 (by omega)), State.afterShort_advance_low_out hout]
    rfl
  | 4, _ =>
    rw [State.afterByte_advance (hin 0 (by omega)), State.afterByte_advance (hin 1 (by omega)),
      State.afterByte_advance (hin 2 (by omega)),
      State.afterShort_advance_high_out (hin 3 (by omega)) hout]
    rfl

/-- The bytes that stand at an address are inside the blob. -/
theorem State.BytesAt.inBlob {a : Word} {bytes : List Byte} (h : s.BytesAt a bytes)
    (hm : m < bytes.length) : s.params.InBlob (a + BitVec.ofNat 16 m) := by
  induction bytes generalizing a m with
  | nil => exact absurd hm (Nat.not_lt_zero m)
  | cons b rest ih =>
    obtain ⟨hin, _, hrest⟩ := h
    cases m with
    | zero => exact (BitVec.add_zero a).symm ▸ hin
    | succ m =>
      rw [Nat.add_comm m 1, BitVec.ofNat_add, ← BitVec.add_assoc]
      exact ih hrest (Nat.lt_of_succ_lt_succ hm)

/-- The step at SET_LFO's six bytes: the five operand bytes are fetched after the opcode byte. -/
theorem step_setLfo {delay speed depth : Byte} {x : Word} (h : s.Consuming c ch p)
    (hb : s.BytesAt p.cursor [0xEA, delay, speed, depth, loByte x, hiByte x]) :
    step s = .next (s.putPart ch
      { p with cursor := p.cursor + 6, lfo := p.lfo.setParameter delay speed depth x }) := by
  have ⟨_, _, hoperands⟩ := hb
  have hexec := exec_setLfo_of_inBlob (h.putPart { p with cursor := p.cursor + 1 }) delay speed
    depth x fun m hm => hoperands.inBlob (Nat.lt_succ_of_le hm)
  have hcursor : p.cursor + 1 + 5 = p.cursor + 6 := BitVec.add_assoc ..
  have hd : ∀ tail, decode ([0xEA, delay, speed, depth, loByte x, hiByte x] ++ tail) =
      .ok (.setLfo delay speed depth x, tail) := fun tail =>
    decodeUndoesEncode (.setLfo delay speed depth x) tail rfl (fun _ _ e => nomatch e)
  rw [step_of_bytesAt h hb (by simp) hd, hexec, State.putPart_putPart, hcursor]

end SetLfo

/-- Settles O24: it holds, by the operand fetches in their order. -/
theorem setLfoResult : Obligations.SetLfoResult := fun _ _ _ _ delay speed depth x h =>
  ⟨step_setLfo h, exec_setLfo_of_inBlob h delay speed depth x,
    fun _ hm => exec_setLfo_of_out h delay speed depth x hm⟩

end Sys2Proof.Machine
end

section
/-! REPEAT_BREAK and REPEAT_END (42_repeat_stack.md R78, R79, R81, R82) by the top frame, and the
terminator (45_commands.md R104). -/

namespace Sys2Proof.Machine

open Sys2Proof

section Repeats

variable {s : State} {c : Caller} {ch : Channel} {p : Part} {f : Frame} {rest : List Frame}

/-! ### REPEAT_BREAK -/

theorem exec_repeatBreak (h : s.Consuming c ch p) :
    exec .repeatBreak s = .next (s.putPart ch p.breakIfLast) :=
  inConsume_of_consuming h.1 h.2 _

theorem Part.breakIfLast_of_last (hrs : p.rs = f :: rest) (hcount : f.count = 1)
    (hend : f.endValid = true) :
    p.breakIfLast = { p with cursor := f.endAddr, rs := rest } := by
  simp only [Part.breakIfLast, hrs, hcount, hend, and_self, if_true]

theorem Part.breakIfLast_of_not_last
    (h : ∀ f, p.rs.head? = some f → f.count ≠ 1 ∨ f.endValid = false) : p.breakIfLast = p := by
  unfold Part.breakIfLast
  split
  next => rfl
  next f rest hrs =>
    refine if_neg fun ⟨hcount, hend⟩ => ?_
    obtain hne | hunknown := h f (by rw [hrs]; rfl)
    · exact hne hcount
    · exact absurd hend (by simp [hunknown])

/-! ### REPEAT_END -/

/-- REPEAT_END's write of its Part: the pass is closed, and an infinite one is counted. -/
def Part.endPass (p : Part) : Part :=
  if p.closePass.2 then
    { p.closePass.1 with infiniteLoopCount := countUp p.closePass.1.infiniteLoopCount }
  else p.closePass.1

theorem exec_repeatEnd (h : s.Consuming c ch p) :
    exec .repeatEnd s = .next (s.putPart ch p.endPass) := by
  refine (inConsume_of_consuming h.1 h.2 _).trans (congrArg _ ?_)
  unfold Part.endPass
  obtain ⟨q, _ | _⟩ := p.closePass <;> rfl

theorem Part.endPass_of_nil (hrs : p.rs = []) : p.endPass = p := by
  simp [Part.endPass, Part.closePass, hrs]

theorem Part.endPass_of_infinite (hrs : p.rs = f :: rest) (hcount : f.count = 0) :
    p.endPass = { p.jumpBack f rest with infiniteLoopCount := countUp p.infiniteLoopCount } := by
  simp [Part.endPass, Part.closePass, hrs, hcount, Part.jumpBack]

theorem Part.endPass_of_more (hrs : p.rs = f :: rest) (hcount : 2 ≤ f.count.toNat) :
    p.endPass = p.jumpBack { f with count := f.count - 1 } rest := by
  have hzero : f.count ≠ 0 := by
    rintro h
    simp [h] at hcount
  have hone : f.count - 1 ≠ 0 := fun h => by
    have hle : (1 : Byte) ≤ f.count := Nat.le_of_lt hcount
    have hnat := congrArg BitVec.toNat h
    rw [BitVec.toNat_sub_of_le hle] at hnat
    simp at hnat
    omega
  simp only [Part.endPass, Part.closePass, hrs, if_neg hzero, if_pos hone]
  rfl

theorem Part.endPass_of_last (hrs : p.rs = f :: rest) (hcount : f.count = 1) :
    p.endPass = { p with rs := rest } := by
  simp [Part.endPass, Part.closePass, hrs, hcount]

/-- The count of infinite passes stops at 65535 (R82, the spec's own D16). -/
theorem countUp_eq_ofNat (x : Word) : countUp x = BitVec.ofNat 16 (min (x.toNat + 1) 65535) := by
  have hx := x.isLt
  unfold countUp
  split
  next h =>
    rw [h]
    rfl
  next h =>
    have hne : x.toNat ≠ 65535 := fun e => h (BitVec.eq_of_toNat_eq e)
    rw [Nat.min_eq_left (by omega), BitVec.ofNat_add, BitVec.ofNat_toNat, BitVec.setWidth_eq]
    rfl

/-! ### TERM -/

theorem exec_term (h : s.Consuming c ch p) (op : Byte) :
    exec (.term op) s =
      .next (((s.putPart ch p.markEnded).emit (.setVolume ch 0)).goto (.returned c ch false)) :=
  inConsume_of_consuming h.1 h.2 _

theorem isTermOpcode_of (op : Byte) (h : op = 0xE8 ∨ 0xED ≤ op.toNat) :
    isTermOpcode op = true := by
  rw [isTermOpcode, Bool.or_eq_true, beq_iff_eq, decide_eq_true_iff]
  exact h

end Repeats

/-- Settles O27: it holds, by the test of the top frame. -/
theorem repeatBreakResult : Obligations.RepeatBreakResult := by
  intro s c ch p h
  refine ⟨fun _ => rfl, fun f rest hrs hcount hend => ?last, fun hnot => ?other⟩
  case last =>
    rw [exec_repeatBreak h, Part.breakIfLast_of_last hrs hcount hend]
    rfl
  case other =>
    rw [exec_repeatBreak h, Part.breakIfLast_of_not_last hnot, State.putPart_self s h.2]

/-- Settles O28: it holds, by the top frame's count. -/
theorem repeatEndResult : Obligations.RepeatEndResult := by
  intro s c ch p h
  refine ⟨fun _ => rfl, fun hrs => ?empty, fun f rest hrs => ⟨fun hcount => ?infinite,
    fun hcount => ?more, fun hcount => ?last⟩⟩
  case empty => rw [exec_repeatEnd h, Part.endPass_of_nil hrs, State.putPart_self s h.2]
  case infinite =>
    rw [exec_repeatEnd h, Part.endPass_of_infinite hrs hcount, countUp_eq_ofNat, Part.jumpBack,
      hcount]
    rfl
  case more =>
    rw [exec_repeatEnd h, Part.endPass_of_more hrs hcount]
    rfl
  case last =>
    rw [exec_repeatEnd h, Part.endPass_of_last hrs hcount]
    rfl

/-- Settles O29: it holds, by the opcode map's last range and TERM's one meaning. -/
theorem termResult : Obligations.TermResult := fun _ _ _ _ op h =>
  ⟨fun hop rest => decodeOpcode_term (isTermOpcode_of op hop) rest, exec_term h op⟩

end Sys2Proof.Machine
end

section
/-! What an instruction can leave (43_part_tick.md R88), said once for all 15 rows: the fields of
the running Part it writes, the events it emits, and the four ways its meaning ends. -/

namespace Sys2Proof

open Sys2Proof.Machine

/-! ### The running Part -/

/-- The parameters a patch record loads are the same (40_envelope.md R60). -/
def Machine.Envelope.SamePatch (e e' : Envelope) : Prop :=
  e'.attackLevel = e.attackLevel ∧ e'.attackRate = e.attackRate ∧ e'.decayRate = e.decayRate ∧
    e'.sustainLevel = e.sustainLevel ∧ e'.sustainRate = e.sustainRate ∧
    e'.releaseRate = e.releaseRate

/-- The parameters SET_LFO stores are the same (41_pitch_lfo.md R70). -/
def Machine.Lfo.SameParameters (l l' : Lfo) : Prop :=
  l'.delay = l.delay ∧ l'.speed = l.speed ∧ l'.depth = l.depth ∧ l'.displacement = l.displacement

/-- The writes of an instruction: `q` is `p` but for the fields that the row writes, with what is
known of their values wherever the meaning stops. -/
def Instr.Writes : Instr → Part → Part → Prop
  | .rest _, p, q =>
    ∃ ticks phase, q = { p with remainingTicks := ticks, env := { p.env with phase := phase } }
  | .note pitch _ _, p, q =>
    ∃ cursor ticks tied base env lfo,
      q = { p with
        cursor := cursor
        remainingTicks := ticks
        isTied := tied
        octave := octaveOf pitch
        baseTonePeriod := base
        env := env
        lfo := lfo } ∧
      p.env.SamePatch env ∧ p.lfo.SameParameters lfo ∧ lfo.enabled = p.lfo.enabled
  | .setPatch _, p, q =>
    ∃ cursor env, q = { p with cursor := cursor, env := env } ∧
      env.current = p.env.current ∧ env.phase = p.env.phase
  | .setVolume _, p, q =>
    ∃ cursor volume, q = { p with cursor := cursor, channelVolume := volume } ∧
      (p.channelVolume ≤ 15 → volume ≤ 15)
  | .repeatStart _, p, q =>
    ∃ cursor rs, q = { p with cursor := cursor, rs := rs } ∧ (p.rs.length ≤ 8 → rs.length ≤ 8)
  | .repeatBreak, p, q =>
    ∃ cursor rs, q = { p with cursor := cursor, rs := rs } ∧ (p.rs.length ≤ 8 → rs.length ≤ 8)
  | .repeatEnd, p, q =>
    ∃ cursor rs loops, q = { p with cursor := cursor, rs := rs, infiniteLoopCount := loops } ∧
      (p.rs.length ≤ 8 → rs.length ≤ 8) ∧
      (loops = p.infiniteLoopCount ∨ loops = countUp p.infiniteLoopCount)
  | .setNoise _, p, q => ∃ cursor, q = { p with cursor := cursor }
  | .volumeUp, p, q =>
    ∃ volume, q = { p with channelVolume := volume } ∧ (p.channelVolume ≤ 15 → volume ≤ 15)
  | .volumeDown, p, q =>
    ∃ volume, q = { p with channelVolume := volume } ∧ (p.channelVolume ≤ 15 → volume ≤ 15)
  | .setDetune _, p, q => ∃ cursor detune, q = { p with cursor := cursor, detune := detune }
  | .setLfo _ _ _ _, p, q => ∃ cursor lfo, q = { p with cursor := cursor, lfo := lfo }
  | .lfoEnable _, p, q =>
    ∃ cursor lfo, q = { p with cursor := cursor, lfo := lfo } ∧ p.lfo.SameParameters lfo
  | .setMix _, p, q => ∃ cursor, q = { p with cursor := cursor }
  | .term _, p, q => q = { p with isEnded := true }

/-- The events of an instruction that its channel's Part, as the instruction leaves it, emits. -/
def Instr.events (i : Instr) (ch : Channel) (q : Part) : List Event :=
  match i with
  | .note _ _ _ => [.setTone ch q.toneOut, .setVolume ch q.volOut]
  | .setNoise b => [.setNoise b]
  | .setMix b => [.setMode ch (mixMode b)]
  | .term _ => [.setVolume ch 0]
  | _ => []

/-! ### The ends of a meaning -/

/-- How instruction `i` can end, run by the Part `p` of channel `ch` for caller `c`: the consume
loop goes on, it ends with the Part's tick returning, the model fault is taken, or it hangs. -/
inductive Instr.Ends (i : Instr) (s : State) (c : Caller) (ch : Channel) (p : Part) : State → Prop
  | goesOn {q : Part} (hq : i.Writes p q) (hi : i.mnemonic ∉ ["REST", "NOTE", "TERM"]) :
    i.Ends s c ch p ((s.putPart ch q).emitAll (i.events ch q))
  | returns {q : Part} {alive : Bool} (hq : i.Writes p q)
    (hi : i.mnemonic ∈ ["REST", "NOTE"] ∧ alive = true ∨ i.mnemonic = "TERM" ∧ alive = false) :
    i.Ends s c ch p (((s.putPart ch q).emitAll (i.events ch q)).goto (.returned c ch alive))
  | faults {q : Part} {a : Word} (hq : i.Writes p q) (hi : i.mnemonic ≠ "TERM") :
    i.Ends s c ch p (s.raiseIn ch q a)
  | hangs {q : Part} (hq : i.Writes p q) (hi : i.mnemonic = "SET_PATCH") :
    i.Ends s c ch p ((s.putPart ch q).goto .hung)

section Ends

variable {i : Instr} {s t : State} {c : Caller} {ch : Channel} {p p' : Part} {go : Part → State}

theorem Instr.Ends.afterByte (hi : i.mnemonic ≠ "TERM") (hfault : i.Writes p p')
    (hpass : i.Ends s c ch p (go { p' with cursor := p'.cursor + 1 })) :
    i.Ends s c ch p (s.afterByte ch p' go) := by
  obtain ⟨_, e⟩ | ⟨_, e⟩ := s.afterByte_cases ch p' go <;> rw [e]
  · exact hpass
  · exact .faults hfault hi

theorem Instr.Ends.afterShort (hi : i.mnemonic ≠ "TERM") (hfault : i.Writes p p')
    (hpass : i.Ends s c ch p (go { p' with cursor := p'.cursor + 2 })) :
    i.Ends s c ch p (s.afterShort ch p' go) := by
  obtain ⟨_, _, e⟩ | ⟨_, e⟩ | ⟨_, _, e⟩ := s.afterShort_cases ch p' go <;> rw [e]
  · exact hpass
  · exact .faults hfault hi
  · exact .faults hfault hi

end Ends

end Sys2Proof

namespace Sys2Proof.Machine

open Sys2Proof

/-! ### The values written -/

theorem clampVolume_le (b : Byte) : clampVolume b ≤ 15 := by
  revert b
  decide

theorem volumeStepUp_le (v : Byte) : volumeStepUp v ≤ 15 := by
  revert v
  decide

theorem volumeStepDown_le {v : Byte} (h : v ≤ 15) : volumeStepDown v ≤ 15 := by
  revert v
  decide

theorem rsStart_length_le {rs : List Frame} (count : Byte) (a : Word) (h : rs.length ≤ 8) :
    (rsStart rs count a).length ≤ 8 := by
  obtain hlt | heq := Nat.lt_or_eq_of_le h
  · rw [rsStart_of_lt hlt]
    exact hlt
  · rw [rsStart_of_ge (Nat.le_of_eq heq.symm)]
    exact h

theorem Part.breakIfLast_writes (p : Part) : Instr.repeatBreak.Writes p p.breakIfLast := by
  unfold Part.breakIfLast
  split
  next => exact ⟨_, _, rfl, id⟩
  next f rest hrs =>
    split
    · exact ⟨_, _, rfl, fun h => Nat.le_of_succ_le (by rwa [hrs] at h)⟩
    · exact ⟨_, _, rfl, id⟩

theorem Part.endPass_writes (p : Part) : Instr.repeatEnd.Writes p p.endPass := by
  cases hrs : p.rs with
  | nil =>
    rw [Part.endPass_of_nil hrs]
    exact ⟨_, _, _, rfl, id, .inl rfl⟩
  | cons f rest =>
    have hlen : p.rs.length = rest.length + 1 := by rw [hrs, List.length_cons]
    obtain hzero | hone | hmore :
        f.count = 0 ∨ f.count = 1 ∨ 2 ≤ f.count.toNat := by
      rw [← BitVec.toNat_inj, ← BitVec.toNat_inj]
      simp only [BitVec.ofNat_eq_ofNat, BitVec.toNat_ofNat]
      omega
    · rw [Part.endPass_of_infinite hrs hzero]
      exact ⟨_, _, _, rfl, fun h => hlen.symm.trans_le h, .inr rfl⟩
    · rw [Part.endPass_of_last hrs hone]
      exact ⟨_, _, _, rfl, fun h => by omega, .inl rfl⟩
    · rw [Part.endPass_of_more hrs hmore]
      exact ⟨_, _, _, rfl, fun h => hlen.symm.trans_le h, .inl rfl⟩

/-- Before its duration byte NOTE has written the pitch alone (44_notes_rests.md R94). -/
theorem Part.setPitch_writes (P : Params) (p : Part) (pitch : BitVec 7) (d : Byte) (tie : Bool) :
    (Instr.note pitch d tie).Writes p (p.setPitch P pitch) :=
  ⟨_, _, _, _, _, _, rfl, ⟨rfl, rfl, rfl, rfl, rfl, rfl⟩, ⟨rfl, rfl, rfl, rfl⟩, rfl⟩

/-- The retrigger keeps the patch and the LFO's parameters. -/
theorem Part.struck_writes (P : Params) (p : Part) (pitch : BitVec 7) (d : Byte) (tie : Bool) :
    (Instr.note pitch d tie).Writes p (p.struck P pitch d) := by
  refine ⟨_, _, _, _, (p.struck P pitch d).env, (p.struck P pitch d).lfo, rfl, ?_⟩
  cases ht : p.isTied with
  | true =>
    obtain ⟨henv, hlfo⟩ := Part.struck_of_tied P pitch d ht
    rw [henv, hlfo]
    exact ⟨⟨rfl, rfl, rfl, rfl, rfl, rfl⟩, ⟨rfl, rfl, rfl, rfl⟩, rfl⟩
  | false =>
    obtain ⟨henv, hlfo⟩ := Part.struck_of_untied P pitch d ht
    rw [henv, hlfo]
    exact ⟨⟨rfl, rfl, rfl, rfl, rfl, rfl⟩, ⟨rfl, rfl, rfl, rfl⟩, rfl⟩

theorem Part.tieCheck_writes {p q : Part} {pitch : BitVec 7} {d : Byte} {tie : Bool}
    (h : (Instr.note pitch d tie).Writes p q) (tie' : Bool) :
    (Instr.note pitch d tie).Writes p (q.tieCheck tie') := by
  obtain ⟨_, _, _, _, env, lfo, rfl, hkept⟩ := h
  rw [Part.tieCheck_eq]
  exact ⟨_, _, _, _, env, lfo, rfl, hkept⟩

/-! ### Every instruction -/

/-- SET_PATCH past its operand keeps the running level, whether its scan ends, faults or hangs. -/
theorem State.usePatch_ends {s : State} {c : Caller} {ch : Channel} {p : Part} (n : Byte)
    (cursor : Word) :
    (Instr.setPatch n).Ends s c ch p (s.usePatch ch { p with cursor := cursor } n) := by
  unfold State.usePatch
  obtain ⟨e, _, h, hkept⟩ | ⟨e, a, h, hkept⟩ | h :=
    envSet_cases s.params p.env n s.patchTableAddress <;> simp only [h]
  · exact .goesOn ⟨_, e, rfl, hkept⟩ (by simp [Instr.mnemonic])
  · exact .faults ⟨_, e, rfl, hkept⟩ (by simp [Instr.mnemonic])
  · exact .hangs ⟨_, p.env, rfl, rfl, rfl⟩ rfl

theorem State.strike_ends {s : State} {c : Caller} {ch : Channel} {p q : Part} {pitch : BitVec 7}
    {d : Byte} {tie : Bool} (h : (Instr.note pitch d tie).Writes p q) :
    (Instr.note pitch d tie).Ends s c ch p (s.strike c ch q tie) := by
  by_cases hin : s.params.InBlob q.cursor
  · rw [State.strike_of_inBlob hin]
    exact .returns (Part.tieCheck_writes h tie) (.inl ⟨by simp [Instr.mnemonic], rfl⟩)
  · rw [State.strike_of_out hin]
    exact .faults h (by simp [Instr.mnemonic])

/-- An instruction with one operand byte ends as its write does, or faults with nothing written. -/
theorem TakesByte.ends {i : Instr} {go : State → Channel → Part → State} (hi : TakesByte i go)
    {s : State} {c : Caller} {ch : Channel} {p : Part} (h : s.Consuming c ch p)
    (hterm : i.mnemonic ≠ "TERM") (hfault : i.Writes p p)
    (hgo : i.Ends s c ch p (go s ch { p with cursor := p.cursor + 1 })) :
    ∃ t, exec i s = .next t ∧ i.Ends s c ch p t :=
  ⟨_, hi h, .afterByte hterm hfault hgo⟩

/-- Every instruction that a Part in its consume loop runs answers a next state, and this is all it
can be. -/
theorem exec_ends {s : State} {c : Caller} {ch : Channel} {p : Part} (h : s.Consuming c ch p)
    (i : Instr) : ∃ t, exec i s = .next t ∧ i.Ends s c ch p t := by
  cases i with
  | rest v =>
    exact ⟨_, exec_rest h v,
      .returns ⟨_, _, p.beginRest_eq v⟩ (.inl ⟨by simp [Instr.mnemonic], rfl⟩)⟩
  | note pitch d tie =>
    exact ⟨_, exec_note h pitch d tie, .afterByte (by simp [Instr.mnemonic])
      (p.setPitch_writes s.params pitch d tie)
      (State.strike_ends (p.struck_writes s.params pitch d tie))⟩
  | setPatch n =>
    exact ⟨_, exec_setPatch h n, .afterByte (by simp [Instr.mnemonic])
      ⟨_, _, rfl, rfl, rfl⟩ (State.usePatch_ends n _)⟩
  | setVolume b =>
    exact (setVolume_takesByte b).ends h (by simp [Instr.mnemonic]) ⟨_, _, rfl, id⟩
      (.goesOn ⟨_, _, rfl, fun _ => clampVolume_le b⟩ (by simp [Instr.mnemonic]))
  | repeatStart count =>
    exact (repeatStart_takesByte count).ends h (by simp [Instr.mnemonic]) ⟨_, _, rfl, id⟩
      (.goesOn ⟨_, _, rfl, rsStart_length_le count _⟩ (by simp [Instr.mnemonic]))
  | repeatBreak =>
    exact ⟨_, exec_repeatBreak h, .goesOn p.breakIfLast_writes (by simp [Instr.mnemonic])⟩
  | repeatEnd =>
    exact ⟨_, exec_repeatEnd h, .goesOn p.endPass_writes (by simp [Instr.mnemonic])⟩
  | setNoise b =>
    exact (setNoise_takesByte b).ends h (by simp [Instr.mnemonic]) ⟨_, rfl⟩
      (.goesOn ⟨_, rfl⟩ (by simp [Instr.mnemonic]))
  | volumeUp =>
    exact ⟨_, inConsume_of_consuming h.1 h.2 _,
      .goesOn ⟨_, rfl, fun _ => volumeStepUp_le _⟩ (by simp [Instr.mnemonic])⟩
  | volumeDown =>
    exact ⟨_, inConsume_of_consuming h.1 h.2 _,
      .goesOn ⟨_, rfl, volumeStepDown_le⟩ (by simp [Instr.mnemonic])⟩
  | setDetune d =>
    exact ⟨_, exec_setDetune h d, .afterShort (by simp [Instr.mnemonic]) ⟨_, _, rfl⟩
      (.goesOn ⟨_, _, rfl⟩ (by simp [Instr.mnemonic]))⟩
  | setLfo delay speed depth x =>
    have hi : (Instr.setLfo delay speed depth x).mnemonic ≠ "TERM" := by simp [Instr.mnemonic]
    exact ⟨_, inConsume_of_consuming h.1 h.2 _,
      .afterByte hi ⟨_, _, rfl⟩ (.afterByte hi ⟨_, _, rfl⟩ (.afterByte hi ⟨_, _, rfl⟩
        (.afterShort hi ⟨_, _, rfl⟩ (.goesOn ⟨_, _, rfl⟩ (by simp [Instr.mnemonic])))))⟩
  | lfoEnable b =>
    exact (lfoEnable_takesByte b).ends h (by simp [Instr.mnemonic])
      ⟨_, _, rfl, rfl, rfl, rfl, rfl⟩
      (.goesOn ⟨_, _, rfl, rfl, rfl, rfl, rfl⟩ (by simp [Instr.mnemonic]))
  | setMix b =>
    exact (setMix_takesByte b).ends h (by simp [Instr.mnemonic]) ⟨_, rfl⟩
      (.goesOn ⟨_, rfl⟩ (by simp [Instr.mnemonic]))
  | term op => exact ⟨_, exec_term h op, .returns rfl (.inr ⟨rfl, rfl⟩)⟩

theorem ends_of_exec {i : Instr} {s t : State} {c : Caller} {ch : Channel} {p : Part}
    (h : s.Consuming c ch p) (he : exec i s = .next t) : i.Ends s c ch p t := by
  obtain ⟨u, hu, hends⟩ := exec_ends h i
  cases he.symm.trans hu
  exact hends

end Sys2Proof.Machine
end

section
/-! The frame of an instruction (43_part_tick.md R88), read off what it can leave: the fields of its
Part, of the state, and what it reports. -/

namespace Sys2Proof

open Sys2Proof.Machine

/-- Which rows may change each field of the Part that runs them, as the obligation lists them. -/
def Instr.PartFrame (i : Instr) (p q : Part) : Prop :=
  (i.mnemonic ∈ ["REST", "VOLUME_UP", "VOLUME_DOWN", "TERM"] → q.cursor = p.cursor) ∧
  (i.mnemonic ∉ ["REST", "NOTE"] → q.remainingTicks = p.remainingTicks) ∧
  (i.mnemonic ∉ ["NOTE"] →
    q.isTied = p.isTied ∧ q.octave = p.octave ∧ q.baseTonePeriod = p.baseTonePeriod ∧
      q.env.current = p.env.current) ∧
  (i.mnemonic ∉ ["TERM"] → q.isEnded = p.isEnded) ∧
  (i.mnemonic ∉ ["SET_VOLUME", "VOLUME_UP", "VOLUME_DOWN"] →
    q.channelVolume = p.channelVolume) ∧
  (i.mnemonic ∉ ["SET_DETUNE"] → q.detune = p.detune) ∧
  (i.mnemonic ∉ ["REPEAT_END"] → q.infiniteLoopCount = p.infiniteLoopCount) ∧
  (i.mnemonic ∉ ["REPEAT_START", "REPEAT_BREAK", "REPEAT_END"] → q.rs = p.rs) ∧
  (i.mnemonic ∉ ["REST", "NOTE"] → q.env.phase = p.env.phase) ∧
  (i.mnemonic ∉ ["SET_PATCH"] →
    q.env.attackLevel = p.env.attackLevel ∧ q.env.attackRate = p.env.attackRate ∧
      q.env.decayRate = p.env.decayRate ∧ q.env.sustainLevel = p.env.sustainLevel ∧
      q.env.sustainRate = p.env.sustainRate ∧ q.env.releaseRate = p.env.releaseRate) ∧
  (i.mnemonic ∉ ["SET_LFO"] →
    q.lfo.delay = p.lfo.delay ∧ q.lfo.speed = p.lfo.speed ∧ q.lfo.depth = p.lfo.depth ∧
      q.lfo.displacement = p.lfo.displacement) ∧
  (i.mnemonic ∉ ["SET_LFO", "LFO_ENABLE"] → q.lfo.enabled = p.lfo.enabled) ∧
  (i.mnemonic ∉ ["SET_LFO", "LFO_ENABLE", "NOTE"] → q.lfo = p.lfo)

theorem Instr.Writes.partFrame {i : Instr} {p q : Part} (h : i.Writes p q) : i.PartFrame p q := by
  cases i with
  | rest v =>
    obtain ⟨_, _, rfl⟩ := h
    simp [Instr.PartFrame, Instr.mnemonic]
  | note pitch d tie =>
    obtain ⟨_, _, _, _, _, _, rfl, hpatch, hparameters, henabled⟩ := h
    simpa [Instr.PartFrame, Instr.mnemonic, Envelope.SamePatch, Lfo.SameParameters]
      using And.intro hpatch ⟨hparameters, henabled⟩
  | setPatch n =>
    obtain ⟨_, _, rfl, hcurrent, hphase⟩ := h
    simp [Instr.PartFrame, Instr.mnemonic, hcurrent, hphase]
  | lfoEnable b =>
    obtain ⟨_, _, rfl, hparameters⟩ := h
    simpa [Instr.PartFrame, Instr.mnemonic, Lfo.SameParameters] using hparameters
  | repeatEnd =>
    obtain ⟨_, _, _, rfl, _⟩ := h
    simp [Instr.PartFrame, Instr.mnemonic]
  | setVolume | repeatStart | repeatBreak =>
    obtain ⟨_, _, rfl, _⟩ := h
    simp [Instr.PartFrame, Instr.mnemonic]
  | volumeUp | volumeDown =>
    obtain ⟨_, rfl, _⟩ := h
    simp [Instr.PartFrame, Instr.mnemonic]
  | setNoise | setMix =>
    obtain ⟨_, rfl⟩ := h
    simp [Instr.PartFrame, Instr.mnemonic]
  | setDetune | setLfo =>
    obtain ⟨_, _, rfl⟩ := h
    simp [Instr.PartFrame, Instr.mnemonic]
  | term op =>
    obtain rfl := h
    simp [Instr.PartFrame, Instr.mnemonic]

/-- Only four rows emit. -/
theorem Instr.events_eq_nil {i : Instr} (ch : Channel) (q : Part)
    (h : i.mnemonic ∉ ["NOTE", "SET_NOISE", "SET_MIX", "TERM"]) : i.events ch q = [] := by
  cases i with
  | note | setNoise | setMix | term => simp [Instr.mnemonic] at h
  | _ => rfl

/-! ### The state -/

section Ends

variable {i : Instr} {s t : State} {c : Caller} {ch : Channel} {p : Part}

/-- An instruction leaves what no Part's operation writes. -/
theorem Instr.Ends.frame (h : i.Ends s c ch p t) :
    t.params = s.params ∧ t.patchTableAddress = s.patchTableAddress ∧
      t.maxLoopCount = s.maxLoopCount ∧ t.spt = s.spt ∧ t.loaded = s.loaded ∧
      t.inbox = s.inbox ∧ t.buffer = s.buffer ∧ t.draws = s.draws := by
  cases h <;> simp

theorem Instr.Ends.slots (h : i.Ends s c ch p t) :
    ∃ q, t.slots = s.slots.set ch (some q) ∧ i.Writes p q := by
  cases h with
  | goesOn hq _ | returns hq _ | faults hq _ | hangs hq _ => exact ⟨_, by simp, hq⟩

theorem Instr.Ends.get_other (h : i.Ends s c ch p t) {ch' : Channel} (hne : ch' ≠ ch) :
    t.slots.get ch' = s.slots.get ch' := by
  obtain ⟨q, hslots, _⟩ := h.slots
  rw [hslots, PerChannel.get_set_other _ hne]

theorem Instr.Ends.get_same (h : i.Ends s c ch p t) :
    ∃ q, t.slots.get ch = some q ∧ i.Writes p q := by
  obtain ⟨q, hslots, hq⟩ := h.slots
  exact ⟨q, by rw [hslots, PerChannel.get_set_same], hq⟩

/-- What is added to the trace is the instruction's events, or nothing where it faults or hangs. -/
theorem Instr.Ends.trace (h : i.Ends s c ch p t) :
    (∃ q, t.slots.get ch = some q ∧ t.trace = s.trace ++ i.events ch q ∧
        t.sink = (i.events ch q).foldl Sink.apply s.sink) ∨
      t.trace = s.trace ∧ t.sink = s.sink := by
  cases h with
  | @goesOn q _ _ => exact .inl ⟨q, by simp⟩
  | @returns q _ _ _ => exact .inl ⟨q, by simp⟩
  | faults _ _ | hangs _ _ => exact .inr ⟨rfl, rfl⟩

/-- Nothing is reported unless the model fault is. -/
theorem Instr.Ends.report (h : i.Ends s c ch p t) :
    t.faulted = s.faulted ∧ t.results = s.results ∧
        (t.activity = s.activity ∨
          i.mnemonic ∈ ["REST", "NOTE"] ∧ t.activity = .returned c ch true ∨
          i.mnemonic = "TERM" ∧ t.activity = .returned c ch false ∨
          i.mnemonic = "SET_PATCH" ∧ t.activity = .hung) ∨
      t.faulted = true ∧ t.activity = .idle ∧
        ∃ a, t.results = s.results ++ [.faulted ⟨.readOutOfRange, a, some ch⟩] := by
  cases h with
  | goesOn _ _ => exact .inl ⟨by simp, by simp, .inl (by simp)⟩
  | returns _ hi =>
    obtain ⟨hi, rfl⟩ | ⟨hi, rfl⟩ := hi
    · exact .inl ⟨by simp, by simp, .inr (.inl ⟨hi, rfl⟩)⟩
    · exact .inl ⟨by simp, by simp, .inr (.inr (.inl ⟨hi, rfl⟩))⟩
  | @faults q a _ _ => exact .inr ⟨rfl, rfl, a, rfl⟩
  | hangs _ hi => exact .inl ⟨rfl, rfl, .inr (.inr (.inr ⟨hi, rfl⟩))⟩

end Ends

/-- Settles O12: it holds, by what an instruction can leave. -/
theorem Machine.execFrame : Obligations.ExecFrame := by
  intro i s t c ch p h he
  have hends := ends_of_exec h he
  obtain ⟨hparams, htable, hlimit, hspt, hloaded, hinbox, hbuffer, hdraws⟩ := hends.frame
  obtain ⟨q, hget, hq⟩ := hends.get_same
  refine ⟨hparams, fun a => congrArg (·.songByte a) hparams, htable, hlimit, hspt, hloaded, hinbox,
    hbuffer, hdraws, fun ch' => hends.get_other, hends.report, ?_, q, hget, hq.partFrame⟩
  obtain ⟨q', _, htrace, hsink⟩ | ⟨htrace, hsink⟩ := hends.trace
  · refine ⟨_, htrace, fun hi => ?_⟩
    have hnone := i.events_eq_nil ch q' hi
    exact ⟨hnone, by rw [hsink, hnone, List.foldl_nil]⟩
  · exact ⟨[], by rw [htrace, List.append_nil], fun _ => ⟨rfl, hsink⟩⟩

end Sys2Proof
end

section
/-! A Part's tick (43_part_tick.md R87): its three ends, and the duration counter over the ticks of
one channel. -/

namespace Sys2Proof.Machine

open Sys2Proof

/-- A Part after a continuing tick: one count of the duration, one step of LFO and envelope. -/
def Part.continued (p : Part) : Part :=
  { p with
    remainingTicks := p.remainingTicks - 1
    lfo := p.lfo.update.1
    env := p.env.update }

theorem Byte.sub_one_eq_zero_iff (b : Byte) : b - 1 = 0 ↔ b = 1 := sub_eq_zero

/-- Emitting appends to the trace and writes the sink, and changes nothing else. -/
theorem State.emitAll_eq (s : State) (es : List Event) :
    s.emitAll es = { s with trace := s.trace ++ es, sink := es.foldl Sink.apply s.sink } := by
  induction es generalizing s with
  | nil => simp
  | cons e es ih =>
    rw [State.emitAll_cons, ih]
    simp [State.emit]

section PartTick

variable (s : State) (c : Caller) (ch : Channel) {p : Part}

theorem State.partTick_of_ended (h : p.isEnded = true) :
    s.partTick c ch p = s.goto (.returned c ch false) := by
  simp only [State.partTick, h, if_true]

/-- The tone that goes out depends on no field that the envelope's step changes, so it is the tone
of the Part as the tick leaves it. -/
theorem State.partTick_of_continuing (h : p.isEnded = false) (hticks : p.remainingTicks ≠ 1) :
    s.partTick c ch p =
      ((s.putPart ch p.continued).emitAll
        (toneEvents ch p.lfo.update.2 p.continued ++ [.setVolume ch p.continued.volOut])).goto
        (.returned c ch true) := by
  have hne : p.remainingTicks - 1 ≠ 0 := fun e => hticks ((Byte.sub_one_eq_zero_iff _).1 e)
  rw [State.partTick, if_neg (Bool.eq_false_iff.1 h)]
  exact if_pos hne

theorem State.partTick_of_boundary (h : p.isEnded = false) (hticks : p.remainingTicks = 1) :
    s.partTick c ch p =
      (s.putPart ch { p with remainingTicks := 0 }).goto (.consuming c ch) := by
  rw [State.partTick, if_neg (Bool.eq_false_iff.1 h), hticks]
  rfl

end PartTick

theorem step_of_visiting {s : State} {c : Caller} {ch : Channel} (h : s.activity = .visiting c ch) :
    step s = .next (s.visit c ch) := by
  simp only [step, h]

theorem State.visit_of_present {s : State} {ch : Channel} {p : Part}
    (h : s.slots.get ch = some p) (c : Caller) : s.visit c ch = s.partTick c ch p := by
  simp only [State.visit, h]

/-- Settles O38: it holds, by the three ends of a Part's tick. -/
theorem partTickResult : Obligations.PartTickResult := by
  intro s c ch p q ha hp hq
  have hq' : q = p.continued := hq
  subst hq'
  rw [step_of_visiting ha, State.visit_of_present hp]
  refine ⟨fun hlive hticks hfired => ?fired, fun hlive hticks hfired => ?notFired,
    fun hlive hticks => ?boundary, fun hended => ?ended⟩
  case fired =>
    rw [State.partTick_of_continuing s c ch hlive hticks, hfired, toneEvents, if_pos rfl,
      State.emitAll_eq]
    rfl
  case notFired =>
    rw [State.partTick_of_continuing s c ch hlive hticks, hfired, toneEvents,
      if_neg Bool.false_ne_true]
    rfl
  case boundary =>
    rw [State.partTick_of_boundary s c ch hlive hticks]
    rfl
  case ended =>
    rw [State.partTick_of_ended s c ch hended]
    rfl

/-! ### The duration counter over a channel's ticks (43_part_tick.md section 5) -/

/-- Before a tick with `left` ticks still to be made, the channel's Part is `p` as far as the
duration goes. -/
def Part.TicksLeft (p : Part) (left : Nat) (q : Part) : Prop :=
  q.remainingTicks = BitVec.ofNat 8 left ∧ q.cursor = p.cursor ∧ q.isEnded = false

theorem Byte.ofNat_succ_eq_one_iff {left : Nat} (h : left < 256) :
    BitVec.ofNat 8 (left + 1) = 1 ↔ left = 0 := by
  rw [← BitVec.toNat_inj]
  simp only [BitVec.ofNat_eq_ofNat, BitVec.toNat_ofNat]
  omega

/-- One tick of a Part with `left + 1` ticks to go, at most 256, leaves `left` and is the boundary
exactly where none are left. -/
theorem tick_counts_one {s t : State} {c : Caller} {ch : Channel} {p q : Part} {left : Nat}
    (ha : s.activity = .visiting c ch) (hstep : step s = .next t) (hget : s.slots.get ch = some q)
    (hq : p.TicksLeft (left + 1) q) (hleft : left < 256) :
    ∃ q', t.slots.get ch = some q' ∧ p.TicksLeft left q' ∧
      t.activity = if 0 < left then .returned c ch true else .consuming c ch := by
  obtain ⟨hticks, hcursor, hlive⟩ := hq
  rw [step_of_visiting ha, State.visit_of_present hget] at hstep
  have hcount : q.remainingTicks - 1 = BitVec.ofNat 8 left := by
    rw [hticks, BitVec.ofNat_add]
    exact BitVec.add_sub_cancel ..
  obtain rfl | hpos := Nat.eq_zero_or_pos left
  · rw [State.partTick_of_boundary s c ch hlive hticks] at hstep
    cases hstep
    exact ⟨_, PerChannel.get_set_same .., ⟨rfl, hcursor, hlive⟩, rfl⟩
  · have hne : q.remainingTicks ≠ 1 := fun e =>
      Nat.ne_of_gt hpos ((Byte.ofNat_succ_eq_one_iff hleft).1 (hticks ▸ e))
    rw [State.partTick_of_continuing s c ch hlive hne] at hstep
    cases hstep
    exact ⟨q.continued, by simp, ⟨hcount, hcursor, hlive⟩, (if_pos hpos).symm⟩

/-- Settles O39: it holds, by induction on the tick's number. -/
theorem durationIsCountedExactly : Obligations.DurationIsCountedExactly := by
  intro before after c ch p n hn hlive hfirst htick hbetween
  have hpos : 0 < n ∧ n ≤ 256 := by
    have hlt := p.remainingTicks.isLt
    rw [hn]
    split
    next => omega
    next h =>
      have hne : p.remainingTicks.toNat ≠ 0 := fun e => h (BitVec.eq_of_toNat_eq e)
      omega
  have hloaded : p.remainingTicks = BitVec.ofNat 8 n := by
    rw [hn]
    split
    next h => rw [h]; rfl
    next => rw [BitVec.ofNat_toNat, BitVec.setWidth_eq]
  have counted : ∀ k < n, ∃ q, (after k).slots.get ch = some q ∧ p.TicksLeft (n - (k + 1)) q ∧
      (after k).activity =
        if 0 < n - (k + 1) then .returned (c k) ch true else .consuming (c k) ch := by
    intro k
    induction k with
    | zero =>
      intro hk
      obtain ⟨ha, hstep⟩ := htick 0 hk
      refine tick_counts_one ha hstep hfirst ⟨?_, rfl, hlive⟩ (by omega)
      rw [hloaded, Nat.sub_add_cancel hk]
    | succ k ih =>
      intro hk
      obtain ⟨ha, hstep⟩ := htick (k + 1) hk
      obtain ⟨q, hget, hq, _⟩ := ih (Nat.lt_of_succ_lt hk)
      refine tick_counts_one ha hstep ((hbetween k hk).trans hget) ?_ (by omega)
      rwa [show n - (k + 1 + 1) + 1 = n - (k + 1) by omega]
  intro k hk
  obtain ⟨q, hget, ⟨hticks, hcursor, _⟩, ha⟩ := counted k hk
  have hiff : 0 < n - (k + 1) ↔ k + 1 < n := by omega
  exact ⟨q, hget, hticks, hcursor, by simpa only [hiff] using ha⟩

end Sys2Proof.Machine
end

section
/-! Orchestration (47_play_context.md R113, R114, R116, R117): what follows a channel's turn, the
end of every Part, the loop policy, and one turn of PRODUCE. -/

namespace Sys2Proof.Machine

open Sys2Proof

/-! ### CtxTick's loop (R113) -/

theorem State.visit_of_absent {s : State} {ch : Channel} (h : s.slots.get ch = none) (c : Caller) :
    s.visit c ch = s.afterChannel c ch := by
  simp only [State.visit, h]

theorem step_of_returned {s : State} {c : Caller} {ch : Channel} {alive : Bool}
    (h : s.activity = .returned c ch alive) : step s = .next (s.leave c ch alive) := by
  simp only [step, h]

/-- A channel before the last hands over to the next one. -/
theorem State.afterChannel_of_ne (s : State) (c : Caller) {ch : Channel} (h : ch ≠ .ch2) :
    s.afterChannel c ch = s.goto (.visiting c (if ch = .ch0 then .ch1 else .ch2)) := by
  cases ch with
  | ch0 | ch1 => rfl
  | ch2 => exact absurd rfl h

/-- The turn of channel 2 is over, with these slots: it was absent, or its Part's tick returned. -/
def State.EndsLoop (s : State) (c : Caller) (slots : PerChannel (Option Part)) : Prop :=
  (s.activity = .visiting c .ch2 ∧ s.slots.ch2 = none ∧ slots = s.slots) ∨
    (s.activity = .returned c .ch2 true ∧ slots = s.slots) ∨
    (s.activity = .returned c .ch2 false ∧ slots = s.slots.set .ch2 none)

/-- After channel 2 the tick is over (R113). -/
theorem State.EndsLoop.step_eq {s : State} {c : Caller} {slots : PerChannel (Option Part)}
    (h : s.EndsLoop c slots) :
    step s = .next (({ s with slots := slots } : State).finishTick c) := by
  obtain ⟨ha, habsent, rfl⟩ | ⟨ha, rfl⟩ | ⟨ha, rfl⟩ := h
  · rw [step_of_visiting ha, State.visit_of_absent (ch := .ch2) habsent]
    rfl
  · rw [step_of_returned ha]
    rfl
  · rw [step_of_returned ha]
    rfl

/-- Settles O40: it holds, by what follows each channel's turn. -/
theorem ctxTickLoop : Obligations.CtxTickLoop := by
  intro s ch
  refine ⟨fun c ha habsent hch => ?absent, fun c alive ha hch => ?returned, fun slots h => ?last⟩
  case absent =>
    rw [step_of_visiting ha, State.visit_of_absent habsent, State.afterChannel_of_ne s c hch]
    rfl
  case returned =>
    rw [step_of_returned ha, State.leave, State.afterChannel_of_ne _ c hch]
    cases alive <;> rfl
  case last => exact State.EndsLoop.step_eq h

/-! ### CtxEnd (R114) -/

theorem State.ctxEnd_slots (s : State) : s.ctxEnd.slots = ⟨none, none, none⟩ := by
  refine PerChannel.ext_get fun ch => ?_
  simp only [State.ctxEnd, State.endSlot_get]
  cases ch <;> rfl

/-- The event that silencing a slot emits, where the slot is present. -/
def State.silence (s : State) (ch : Channel) : List Event :=
  if (s.slots.get ch).isSome then [.setVolume ch 0] else []

/-- Silencing a slot writes nothing but the slot, the trace and the sink's volumes. -/
theorem State.endSlot_eq (s : State) (ch : Channel) :
    s.endSlot ch = { s with
      slots := s.slots.set ch none
      trace := s.trace ++ s.silence ch
      sink := { s.sink with
        volume := if (s.slots.get ch).isSome then s.sink.volume.set ch 0 else s.sink.volume } } := by
  unfold State.silence
  obtain ⟨hnone, e⟩ | ⟨p, hsome, e⟩ := s.endSlot_cases ch
  · have hkeep : s.slots.set ch none = s.slots := by rw [← hnone, PerChannel.set_get]
    rw [e, hnone, hkeep]
    simp
  · rw [e, hsome]
    rfl

/-- Silencing one slot leaves what another one would emit. -/
theorem State.endSlot_silence (s : State) {ch ch' : Channel} (h : ch' ≠ ch) :
    (s.endSlot ch).silence ch' = s.silence ch' := by
  simp only [State.silence, State.endSlot_get, if_neg h]

theorem State.map_filter_present_cons (s : State) (ch : Channel) (rest : List Channel) :
    ((ch :: rest).filter fun ch => (s.slots.get ch).isSome).map
        (fun ch => Event.setVolume ch 0) =
      s.silence ch ++
        (rest.filter fun ch => (s.slots.get ch).isSome).map fun ch => Event.setVolume ch 0 := by
  rw [List.filter_cons, State.silence]
  split <;> rfl

/-- CtxEnd's events: the volume 0 of every present channel, in order. -/
theorem State.ctxEnd_trace (s : State) :
    s.ctxEnd.trace = s.trace ++
      ([Channel.ch0, .ch1, .ch2].filter fun ch => (s.slots.get ch).isSome).map
        fun ch => Event.setVolume ch 0 := by
  have hsilences : s.ctxEnd.trace =
      s.trace ++ s.silence .ch0 ++ s.silence .ch1 ++ s.silence .ch2 := by
    have htrace (u : State) (ch : Channel) : (u.endSlot ch).trace = u.trace ++ u.silence ch := by
      rw [State.endSlot_eq]
    simp only [State.ctxEnd, htrace, State.endSlot_silence, ne_eq, reduceCtorEq,
      not_false_eq_true]
  simp only [hsilences, State.map_filter_present_cons, List.filter_nil, List.map_nil,
    List.append_nil, List.append_assoc]

theorem State.endSlot_volume (s : State) (ch ch' : Channel) :
    (s.endSlot ch).sink.volume.get ch' =
      if ch' = ch ∧ (s.slots.get ch).isSome then 0 else s.sink.volume.get ch' := by
  rw [State.endSlot_eq]
  cases (s.slots.get ch).isSome with
  | true => simp [PerChannel.get_set]
  | false => simp

theorem State.ctxEnd_sink (s : State) :
    (∀ ch, s.ctxEnd.sink.volume.get ch =
      if (s.slots.get ch).isSome then 0 else s.sink.volume.get ch) ∧
    s.ctxEnd.sink.tone = s.sink.tone ∧ s.ctxEnd.sink.mode = s.sink.mode ∧
      s.ctxEnd.sink.noise = s.sink.noise := by
  refine ⟨fun ch => ?volume, ?others⟩
  case volume =>
    simp only [State.ctxEnd, State.endSlot_volume, State.endSlot_get]
    cases hs : (s.slots.get ch).isSome <;> cases ch <;> simp_all
  case others =>
    rw [State.ctxEnd, State.endSlot_eq, State.endSlot_eq, State.endSlot_eq]
    exact ⟨rfl, rfl, rfl⟩

/-- CtxEnd writes nothing but the slots, the trace and the sink. -/
theorem State.ctxEnd_frame (s : State) :
    s.ctxEnd = { s with
      slots := s.ctxEnd.slots, trace := s.ctxEnd.trace, sink := s.ctxEnd.sink } := by
  rw [State.ctxEnd, State.endSlot_eq, State.endSlot_eq, State.endSlot_eq]

/-- Settles O41: it holds, by CtxEnd on each channel in order. -/
theorem endSilencesAndRemovesEveryPart : Obligations.EndSilencesAndRemovesEveryPart := by
  intro s rest ha hi hl hf
  let u : State := { s with inbox := rest }
  obtain ⟨hvolume, htone, hmode, hnoise⟩ := u.ctxEnd_sink
  refine ⟨u.ctxEnd.complete .ended, step_begins_request ha hi hl hf, u.ctxEnd_slots, ?_, ?_, rfl,
    u.ctxEnd_trace, hvolume, htone, hmode, hnoise, u.ctxEnd_params, ?_⟩ <;>
    rw [u.ctxEnd_frame]
  · rfl
  · rfl
  · exact ⟨rfl, rfl, rfl, rfl, rfl, rfl, rfl⟩

/-! ### The loop policy (R116) -/

theorem le_slotLoops_iff {limit : Nat} (h : limit ≠ 0) (slot : Option Part) :
    limit ≤ slotLoops slot ↔ ∃ p, slot = some p ∧ limit ≤ p.infiniteLoopCount.toNat := by
  cases slot with
  | none => simp [slotLoops, h]
  | some p => simp [slotLoops]

/-- The maximum reaches a limit above 0 exactly where some present Part's count does. -/
theorem State.le_maxLoops_iff (s : State) {limit : Nat} (h : limit ≠ 0) :
    limit ≤ s.maxLoops ↔
      ∃ ch p, s.slots.get ch = some p ∧ limit ≤ p.infiniteLoopCount.toNat := by
  rw [State.maxLoops, le_max_iff, le_max_iff, le_slotLoops_iff h, le_slotLoops_iff h,
    le_slotLoops_iff h]
  constructor
  · rintro (⟨p, hp⟩ | ⟨p, hp⟩ | ⟨p, hp⟩)
    · exact ⟨.ch0, p, hp⟩
    · exact ⟨.ch1, p, hp⟩
    · exact ⟨.ch2, p, hp⟩
  · rintro ⟨_ | _ | _, p, hp⟩
    · exact .inl ⟨p, hp⟩
    · exact .inr (.inl ⟨p, hp⟩)
    · exact .inr (.inr ⟨p, hp⟩)

/-- Settles O43: it holds, by the test against the maximum of the present Parts' counts. -/
theorem loopPolicyEndsPlayback : Obligations.LoopPolicyEndsPlayback := by
  intro s
  refine ⟨fun hnone => ?unlimited, fun limit hlimit => ⟨fun hreached => ?ends,
    fun hne hbelow => ?goesOn⟩⟩
  case unlimited => simp only [State.applyLoopPolicy, hnone]
  case ends =>
    have hle : limit ≤ s.maxLoops := by
      by_cases hzero : limit = 0
      · exact hzero ▸ Nat.zero_le _
      · exact (s.le_maxLoops_iff hzero).2 (hreached.resolve_left hzero)
    simp only [State.applyLoopPolicy, hlimit, if_pos hle]
  case goesOn =>
    have hlt : ¬ limit ≤ s.maxLoops := fun hle => by
      obtain ⟨ch, p, hp, hcount⟩ := (s.le_maxLoops_iff hne).1 hle
      exact Nat.not_lt.2 hcount (hbelow ch p hp)
    simp only [State.applyLoopPolicy, hlimit, if_neg hlt]

/-! ### PRODUCE (R117) -/

theorem step_of_producing {s : State} {n k : Nat} (h : s.activity = .producing n k) :
    step s = .next (s.produceTurn n k) := by
  simp only [step, h]

/-- What plays is what has a slot that is not absent. -/
theorem State.playing_eq_false_iff (s : State) :
    s.playing = false ↔ s.slots = ⟨none, none, none⟩ := by
  rw [← Bool.not_eq_true, State.playing_eq_true_iff, not_not]

theorem State.produceTurn_of_stop {s : State} {n k : Nat} (h : n ≤ k ∨ s.playing = false) :
    s.produceTurn n k = s.complete (.produced k) := by
  refine if_neg fun ⟨hlt, hplaying⟩ => ?_
  obtain hle | hnone := h
  · omega
  · exact absurd hplaying (by simp [hnone])

/-- One sample is pulled; then the loop goes on, or a tick begins where the budget is used up. -/
theorem State.produceTurn_of_go {s : State} {n k : Nat} (h : k < n) (hplaying : s.playing = true) :
    s.produceTurn n k =
      if s.pull.spt.remaining = 0 then
        s.pull.applyLoopPolicy.goto (.visiting (.produce n (k + 1)) .ch0)
      else s.pull.goto (.producing n (k + 1)) := if_pos ⟨h, hplaying⟩

theorem State.pull_remaining_eq_zero_iff (s : State) :
    s.pull.spt.remaining = 0 ↔ s.spt.remaining = 1 := sub_eq_zero

/-- Settles O44: it holds, by one turn of the loop and by what ends its tick. -/
theorem produceLoopResult : Obligations.ProduceLoopResult := by
  refine ⟨fun s n k ha => ⟨fun hstop => ?stop, fun hk hplaying => ?go⟩,
    fun s n k slots h => ⟨fun hnone => ?silent, fun hsome => ?refill⟩⟩
  case stop =>
    rw [step_of_producing ha,
      State.produceTurn_of_stop (hstop.imp_right s.playing_eq_false_iff.2)]
    rfl
  case go =>
    have hturn := State.produceTurn_of_go hk (s.playing_eq_true_iff.2 hplaying)
    refine ⟨s.pull, rfl, fun hmore => ?_, fun hlast => ?_⟩
    · have hne : s.pull.spt.remaining ≠ 0 := fun e =>
        hmore (s.pull_remaining_eq_zero_iff.1 e)
      rw [step_of_producing ha, hturn, if_neg hne]
      rfl
    · rw [step_of_producing ha, hturn, if_pos (s.pull_remaining_eq_zero_iff.2 hlast)]
      rfl
  case silent =>
    have hplaying := State.playing_eq_false_iff { s with slots := slots } |>.2 hnone
    rw [State.EndsLoop.step_eq h, State.finishTick, hplaying]
    rfl
  case refill =>
    have hplaying := State.playing_eq_true_iff { s with slots := slots } |>.2 hsome
    rw [State.EndsLoop.step_eq h, State.finishTick, hplaying]
    rfl

end Sys2Proof.Machine
end

section
/-! The converter over the ticks of a session (46_samples_per_tick.md R105, R107): priming and
refilling keep it legal, and its error carries the exact remainder of the samples owed. -/

namespace Sys2Proof.Machine

open Sys2Proof

namespace SamplesPerTick

/-! ### Refilling -/

theorem Legal.refill {c : SamplesPerTick} (h : c.Legal) :
    c.refill.Legal ∧ c.refill.remaining ≠ 0 := by
  obtain ⟨hcarry, hnone, hquotient, hremainder, _⟩ := sptNextResult c h
  obtain ⟨hquot, hquot', hrem, hlo, hhi, _⟩ := h
  have hq : c.refill.quotient = c.quotient := hquotient
  have hr : c.refill.remainder = c.remainder := hremainder
  have hbounds : -5994 ≤ c.next.1.error.toInt ∧ c.next.1.error.toInt ≤ -1 ∧
      c.quotient.toNat ≤ c.next.2.toNat ∧ c.next.2.toNat ≤ c.quotient.toNat + 1 := by
    obtain he | he := le_or_gt 0 (c.error.toInt + c.remainder.toNat)
    · obtain ⟨hcount, herror⟩ := hcarry he
      omega
    · obtain ⟨hcount, herror⟩ := hnone he
      omega
  obtain ⟨helo, hehi, hmin, hmax⟩ := hbounds
  refine ⟨⟨hq ▸ hquot, hq ▸ hquot', hr ▸ hrem, helo, hehi, hq ▸ hmax⟩, fun hzero => ?_⟩
  have hnat : c.next.2.toNat = 0 := congrArg BitVec.toNat hzero
  omega

/-! ### Priming (R105) -/

/-- The converter before its priming SptNext. -/
def unprimed (sampleRate : Word32) : SamplesPerTick where
  quotient := BitVec.ofNat 32 (sampleRate.toNat * 100 / 5994)
  remainder := BitVec.ofNat 32 (sampleRate.toNat * 100 % 5994)
  error := BitVec.ofInt 32 (-5994)
  remaining := 0

theorem init_eq_refill (sampleRate : Word32) : init sampleRate = (unprimed sampleRate).refill :=
  rfl

section Accepted

variable {sampleRate : Word32} (h : rateAccepted sampleRate = true)
include h

theorem unprimed_quotient :
    (unprimed sampleRate).quotient.toNat = sampleRate.toNat * 100 / 5994 := by
  obtain ⟨_, _⟩ := (rateAccepted_iff sampleRate).1 h
  rw [unprimed, BitVec.toNat_ofNat, Nat.mod_eq_of_lt]
  omega

omit h in
theorem unprimed_remainder (sampleRate : Word32) :
    (unprimed sampleRate).remainder.toNat = sampleRate.toNat * 100 % 5994 := by
  rw [unprimed, BitVec.toNat_ofNat, Nat.mod_eq_of_lt]
  omega

omit h in
theorem unprimed_error (sampleRate : Word32) : (unprimed sampleRate).error.toInt = -5994 :=
  toInt_ofInt_error (by omega) (by omega)

theorem unprimed_legal : (unprimed sampleRate).Legal := by
  have hq := unprimed_quotient h
  have hr := unprimed_remainder sampleRate
  have he := unprimed_error sampleRate
  have hremaining : (unprimed sampleRate).remaining.toNat = 0 := rfl
  obtain ⟨_, _⟩ := (rateAccepted_iff sampleRate).1 h
  unfold Legal
  omega

theorem init_legal : (init sampleRate).Legal ∧ (init sampleRate).remaining ≠ 0 :=
  (unprimed_legal h).refill

end Accepted

/-- What priming leaves: the error has not reached 0, so the first count is the quotient. -/
theorem init_eq (sampleRate : Word32) :
    init sampleRate =
      ⟨BitVec.ofNat 32 (sampleRate.toNat * 100 / 5994),
        BitVec.ofNat 32 (sampleRate.toNat * 100 % 5994),
        BitVec.ofInt 32 (-5994 + ((sampleRate.toNat * 100 % 5994 : Nat) : Int)),
        BitVec.ofNat 32 (sampleRate.toNat * 100 / 5994)⟩ := by
  have hr := unprimed_remainder sampleRate
  have he := unprimed_error sampleRate
  have hneg : (unprimed sampleRate).error.toInt + (unprimed sampleRate).remainder.toNat < 0 := by
    omega
  rw [init_eq_refill, refill, next_of_neg hneg, hr, he]
  rfl

/-! ### The samples owed (R107) -/

/-- After `n` refills of a converter for `S` hundredths of samples per 59.94 ticks, the error is
-5994 plus what the exact division of `n * S` by 5994 leaves. -/
structure Tracks (S n : Nat) (c : SamplesPerTick) : Prop where
  quotient : c.quotient.toNat = S / 5994
  remainder : c.remainder.toNat = S % 5994
  error : c.error.toInt = -5994 + ((n * (S % 5994) % 5994 : Nat) : Int)

theorem Tracks.refill {S n : Nat} {c : SamplesPerTick} (h : Tracks S n c) (hc : c.Legal) :
    Tracks S (n + 1) c.refill ∧
      n * S / 5994 + c.refill.remaining.toNat = (n + 1) * S / 5994 := by
  obtain ⟨hquotient, hremainder, herror⟩ := h
  obtain ⟨hcarry, hnone, hq, hr, _⟩ := sptNextResult c hc
  have hmul : n * S = 5994 * (n * (S / 5994)) + n * (S % 5994) := by
    rw [Nat.mul_left_comm, ← Nat.mul_add, Nat.div_add_mod]
  have hsucc : (n + 1) * S =
      5994 * (n * (S / 5994)) + n * (S % 5994) + (5994 * (S / 5994) + S % 5994) := by
    rw [Nat.succ_mul, hmul, Nat.div_add_mod]
  have hstep : (n + 1) * (S % 5994) = n * (S % 5994) + S % 5994 := Nat.succ_mul ..
  have hnext : c.next.1.error.toInt = -5994 + (((n + 1) * (S % 5994) % 5994 : Nat) : Int) ∧
      n * S / 5994 + c.next.2.toNat = (n + 1) * S / 5994 := by
    rw [hstep, hsucc, hmul]
    obtain he | he := le_or_gt 0 (c.error.toInt + c.remainder.toNat)
    · obtain ⟨hcount, herror'⟩ := hcarry he
      omega
    · obtain ⟨hcount, herror'⟩ := hnone he
      omega
  exact ⟨⟨hq ▸ hquotient, hr ▸ hremainder, hnext.1⟩, hnext.2⟩

/-- The converter after priming and `n` refills. -/
theorem converterAfter_tracks {sampleRate : Word32} (h : rateAccepted sampleRate = true) (n : Nat) :
    (converterAfter sampleRate n).Legal ∧
      Tracks (sampleRate.toNat * 100) (n + 1) (converterAfter sampleRate n) ∧
      n * (sampleRate.toNat * 100) / 5994 + (converterAfter sampleRate n).remaining.toNat =
        (n + 1) * (sampleRate.toNat * 100) / 5994 := by
  induction n with
  | zero =>
    have htracks : Tracks (sampleRate.toNat * 100) 0 (unprimed sampleRate) :=
      ⟨unprimed_quotient h, unprimed_remainder sampleRate, by
        rw [unprimed_error, Nat.zero_mul]
        rfl⟩
    exact ⟨(init_legal h).1, htracks.refill (unprimed_legal h)⟩
  | succ n ih =>
    obtain ⟨hlegal, htracks, _⟩ := ih
    exact ⟨hlegal.refill.1, htracks.refill hlegal⟩

end SamplesPerTick

/-- Settles O46: it holds, by induction on the number of ticks. -/
theorem sampleTotalsNeverDrift : Obligations.SampleTotalsNeverDrift := by
  intro sampleRate N h
  have htotal (n : Nat) :
      sampleTotal sampleRate n = n * (sampleRate.toNat * 100) / 5994 := by
    induction n with
    | zero => rw [sampleTotal, Nat.zero_mul, Nat.zero_div]
    | succ n ih =>
      obtain ⟨_, _, hcount⟩ := SamplesPerTick.converterAfter_tracks h n
      rw [sampleTotal, ih, hcount]
  obtain ⟨_, htracks, _⟩ := SamplesPerTick.converterAfter_tracks h N
  exact ⟨htotal N, htracks.error⟩

end Sys2Proof.Machine
end

section
/-! Power-on and the requests that are turned away or only begin (60_exceptions.md R121, R131,
70_reset_and_hazards.md R134). -/

namespace Sys2Proof.Machine

open Sys2Proof

/-! ### The refusal test (R121, R125) -/

theorem State.gate_of_unloaded {s : State} (h : s.loaded = false) : s.gate = some .notLoaded := by
  simp [State.gate, h]

theorem State.gate_of_faulted {s : State} (hl : s.loaded = true) (hf : s.faulted = true) :
    s.gate = some .faulted := by
  simp [State.gate, hl, hf]

theorem State.gate_eq_none_iff (s : State) :
    s.gate = none ↔ s.loaded = true ∧ s.faulted = false := by
  unfold State.gate
  cases s.loaded <;> cases s.faulted <;> simp

/-- What the gate turns away is answered with its reason; LOAD does not pass the gate. -/
theorem State.serve_of_gate_eq_some {s : State} {reason : RefusalReason} (h : s.gate = some reason)
    {r : Request} (hr : ∀ sampleRate limit, r ≠ .load sampleRate limit) :
    s.serve r = s.complete (.refused reason) := by
  cases r with
  | load sampleRate limit => exact absurd rfl (hr sampleRate limit)
  | produce | tick | finish | isPlaying => simp [State.serve, h]

theorem step_serves {s : State} {r : Request} {rest : List Request} (ha : s.activity = .idle)
    (hi : s.inbox = r :: rest) : step s = .next (({ s with inbox := rest }).serve r) := by
  rw [step_of_idle ha, State.accept_of_inbox hi]

theorem State.load_of_rejected {s : State} {sampleRate : Word32}
    (h : rateAccepted sampleRate = false) (limit : Option Nat) :
    s.load sampleRate limit = s.complete (.refused .sampleRateOutOfRange) := by
  simp [State.load, h]

/-- Settles O48: it holds, since nothing turns the request away. -/
theorem tickAndProduceBegin : Obligations.TickAndProduceBegin := by
  intro s rest ha hl hf
  exact ⟨fun hi => step_begins_request ha hi hl hf, fun n hi => step_begins_request ha hi hl hf⟩

/-- Settles O49: it holds, by LOAD's own test and the gate's two reasons. -/
theorem refusedRequestsChangeNothing : Obligations.RefusedRequestsChangeNothing := by
  intro s r rest ha hi
  let u : State := { s with inbox := rest }
  refine ⟨fun sampleRate limit hr hrate => ?rate, fun hr hl => ?notLoaded, fun hr hl hf => ?faulted⟩
  case rate =>
    have hrejected : rateAccepted sampleRate = false := by
      rw [← Bool.not_eq_true, rateAccepted_iff]
      omega
    subst hr
    rw [step_serves ha hi, State.serve, State.load_of_rejected hrejected]
    exact congrArg _ (State.complete_of_idle (s := u) ha _)
  case notLoaded =>
    rw [step_serves ha hi, State.serve_of_gate_eq_some (State.gate_of_unloaded (s := u) hl) hr]
    exact congrArg _ (State.complete_of_idle (s := u) ha _)
  case faulted =>
    rw [step_serves ha hi, State.serve_of_gate_eq_some (State.gate_of_faulted (s := u) hl hf) hr]
    exact congrArg _ (State.complete_of_idle (s := u) ha _)

/-! ### Power-on -/

/-- Settles O51: it holds, by the power-on state's fields and the idle block's step. -/
theorem powerOnIsUnloadedAndIdle : Obligations.PowerOnIsUnloadedAndIdle :=
  ⟨fun _ => ⟨rfl, rfl, rfl, rfl⟩, rfl⟩

theorem State.powerOn_absent (P : Params) (ch : Channel) :
    (State.powerOn P).slots.get ch = none := by
  cases ch <;> rfl

theorem State.powerOn_inv {P : Params} (hsong : P.song.wf = true) (hmin : 1 ≤ P.blobLen)
    (hmax : P.blobLen ≤ 65536) : (State.powerOn P).Inv where
  song := hsong
  blob := ⟨hmin, hmax⟩
  parts ch p hp := by simp [State.powerOn_absent] at hp
  ended ch p hp := by simp [State.powerOn_absent] at hp
  atWork ch hch := by simp [State.powerOn, Activity.atWork] at hch
  converter hplaying := by simp [State.playing, State.powerOn] at hplaying
  budget _ hplaying := by simp [State.playing, State.powerOn] at hplaying
  session h := by simp [State.playing, State.powerOn] at h
  stopped hf := by simp [State.powerOn] at hf

/-- Settles O53: it holds, since at power-on no slot is present and the block is idle. -/
theorem powerOnHasTheInvariant : Obligations.PowerOnHasTheInvariant :=
  ⟨fun _ hsong hmin hmax => State.powerOn_inv hsong hmin hmax,
    State.powerOn_inv Memory.wf_reset (Nat.le_refl 1) (by decide)⟩

end Sys2Proof.Machine
end

section
/-! LOAD (47_play_context.md R112, 70_reset_and_hazards.md R132): where the scan of the title stops,
the header's reads, and the state a session starts with. -/

namespace Sys2Proof.Machine

open Sys2Proof

section Header

variable {P : Params}

/-! ### The title scan (R112) -/

/-- The scan has passed the first `k` addresses where they are inside the blob and none is 0. -/
theorem titleScan_of_passed {k : Nat} {a : Word}
    (h : ∀ j < k, P.InBlob (a + BitVec.ofNat 16 j) ∧ P.songByte (a + BitVec.ofNat 16 j) ≠ 0)
    (fuel : Nat) : titleScan P (fuel + k) a = titleScan P fuel (a + BitVec.ofNat 16 k) := by
  induction k generalizing a with
  | zero => rw [Nat.add_zero, BitVec.add_zero]
  | succ k ih =>
    have hnext (j : Nat) : a + 1 + BitVec.ofNat 16 j = a + BitVec.ofNat 16 (j + 1) := by
      rw [BitVec.add_assoc, Nat.add_comm j 1, BitVec.ofNat_add]
      rfl
    obtain ⟨hin, hne⟩ := h 0 (Nat.succ_pos k)
    rw [BitVec.add_zero] at hin hne
    have hrest : ∀ j < k, P.InBlob (a + 1 + BitVec.ofNat 16 j) ∧
        P.songByte (a + 1 + BitVec.ofNat 16 j) ≠ 0 := fun j hj => by
      rw [hnext]
      exact h (j + 1) (Nat.succ_lt_succ hj)
    rw [← Nat.add_assoc, titleScan_step hin hne, ih hrest, hnext]

/-- The title scan starts at address 0 and makes at most one probe for each address. -/
theorem titleScan_reaches {k : Nat} (hk : k ≤ 65536)
    (h : ∀ j < k, P.InBlob (BitVec.ofNat 16 j) ∧ P.songByte (BitVec.ofNat 16 j) ≠ 0) :
    titleScan P Config.addressCount 0 = titleScan P (65536 - k) (BitVec.ofNat 16 k) := by
  have hpassed := titleScan_of_passed (a := 0#16) (k := k)
    (fun j hj => (BitVec.zero_add (BitVec.ofNat 16 j)).symm ▸ h j hj) (65536 - k)
  rwa [Nat.sub_add_cancel hk, BitVec.zero_add] at hpassed

theorem titleScan_found {a : Word} (hin : P.InBlob a) (h : P.songByte a = 0) (fuel : Nat) :
    titleScan P (fuel + 1) a = .found a := by
  simp only [titleScan, Params.readByte_of_inBlob hin, if_pos h]

theorem titleScan_out {a : Word} (hout : ¬ P.InBlob a) (fuel : Nat) :
    titleScan P (fuel + 1) a = .out a := by
  simp only [titleScan, Params.readByte_of_out hout]

theorem Word.toNat_ofNat_of_lt {k : Nat} (h : k < 65536) : (BitVec.ofNat 16 k).toNat = k :=
  (BitVec.toNat_ofNat ..).trans (Nat.mod_eq_of_lt h)

/-- The base is the first address that holds 0, with everything before it inside the blob. -/
theorem titleScan_eq_found {T : Word}
    (h : ∀ a : Word, a.toNat < T.toNat → P.InBlob a ∧ P.songByte a ≠ 0) (hin : P.InBlob T)
    (hT : P.songByte T = 0) : titleScan P Config.addressCount 0 = .found T := by
  have hlt := T.isLt
  have hreach := titleScan_reaches (P := P) (k := T.toNat) (Nat.le_of_lt hlt) fun j hj =>
    h _ ((Word.toNat_ofNat_of_lt (Nat.lt_trans hj hlt)).trans_lt hj)
  obtain ⟨fuel, hfuel⟩ := Nat.exists_eq_succ_of_ne_zero (Nat.sub_ne_zero_of_lt hlt)
  rw [hreach, BitVec.ofNat_toNat, BitVec.setWidth_eq, hfuel]
  exact titleScan_found hin hT fuel

/-- With no 0 inside a blob shorter than the address space the scan stops at its end. -/
theorem titleScan_eq_out (hlen : P.blobLen < 65536)
    (h : ∀ a : Word, P.InBlob a → P.songByte a ≠ 0) :
    titleScan P Config.addressCount 0 = .out (BitVec.ofNat 16 P.blobLen) := by
  have hend := Word.toNat_ofNat_of_lt hlen
  have hreach := titleScan_reaches (P := P) (Nat.le_of_lt hlen) fun j hj =>
    have hin : P.InBlob (BitVec.ofNat 16 j) :=
      (Word.toNat_ofNat_of_lt (Nat.lt_trans hj hlen)).trans_lt hj
    ⟨hin, h _ hin⟩
  obtain ⟨fuel, hfuel⟩ := Nat.exists_eq_succ_of_ne_zero (Nat.sub_ne_zero_of_lt hlen)
  rw [hreach, hfuel]
  exact titleScan_out (Nat.not_lt.2 hend.ge) fuel

theorem titleScan_eq_endless (hlen : 65536 ≤ P.blobLen)
    (h : ∀ a : Word, P.InBlob a → P.songByte a ≠ 0) :
    titleScan P Config.addressCount 0 = .endless := by
  have hin (a : Word) : P.InBlob a := Nat.lt_of_lt_of_le a.isLt hlen
  exact titleScan_reaches (P := P) (Nat.le_refl 65536) fun j _ => ⟨hin _, h _ (hin _)⟩

/-! ### The header's fields (R57, R112) -/

variable {T : Word} {m : Nat}

theorem Params.readShort_at (h : P.InBlob (T + BitVec.ofNat 16 m))
    (h' : P.InBlob (T + BitVec.ofNat 16 (m + 1))) :
    P.readShort (T + BitVec.ofNat 16 m) =
      .ok (le16 (P.songByte (T + BitVec.ofNat 16 m)) (P.songByte (T + BitVec.ofNat 16 m + 1))) :=
  Params.readShort_of_inBlob h (Word.add_ofNat_succ T m ▸ h')

theorem Params.readShort_at_high_out (h : P.InBlob (T + BitVec.ofNat 16 m))
    (h' : ¬ P.InBlob (T + BitVec.ofNat 16 (m + 1))) :
    P.readShort (T + BitVec.ofNat 16 m) = .error (T + BitVec.ofNat 16 (m + 1)) :=
  (Params.readShort_of_high_out h (Word.add_ofNat_succ T m ▸ h')).trans
    (congrArg _ (Word.add_ofNat_succ T m))

/-- The field of the header at this address. -/
def Params.field (P : Params) (a : Word) : Word := le16 (P.songByte a) (P.songByte (a + 1))

theorem headerFields_eq_ok (h : ∀ m, 2 ≤ m → m ≤ 9 → P.InBlob (T + BitVec.ofNat 16 m)) :
    headerFields P T = .ok
      { patchTableAddress := P.field (T + 2) + T
        starts := ⟨startAddress T (P.field (T + 4)), startAddress T (P.field (T + 6)),
          startAddress T (P.field (T + 8))⟩ } := by
  have hread (m : Nat) (hm : 2 ≤ m) (hm' : m ≤ 8) :
      P.readShort (T + BitVec.ofNat 16 m) = .ok (P.field (T + BitVec.ofNat 16 m)) :=
    Params.readShort_at (h m hm (by omega)) (h (m + 1) (by omega) (by omega))
  have h2 : P.readShort (T + 2) = .ok (P.field (T + 2)) := hread 2 (by omega) (by omega)
  have h4 : P.readShort (T + 4) = .ok (P.field (T + 4)) := hread 4 (by omega) (by omega)
  have h6 : P.readShort (T + 6) = .ok (P.field (T + 6)) := hread 6 (by omega) (by omega)
  have h8 : P.readShort (T + 8) = .ok (P.field (T + 8)) := hread 8 (by omega) (by omega)
  simp only [headerFields, h2, h4, h6, h8]

/-- The header is four shorts in a row: the first that faults is the header's fault. -/
theorem headerFields_eq_error {a : Word} {k : Nat} (hk : k < 4)
    (hok : ∀ k' < k, ∃ v, P.readShort (T + BitVec.ofNat 16 (2 * k' + 2)) = .ok v)
    (herr : P.readShort (T + BitVec.ofNat 16 (2 * k + 2)) = .error a) :
    headerFields P T = .error a := by
  match k, hk with
  | 0, _ =>
    have h2 : P.readShort (T + 2) = .error a := herr
    simp only [headerFields, h2]
  | 1, _ =>
    obtain ⟨_, h2 : P.readShort (T + 2) = _⟩ := hok 0 (by omega)
    have h4 : P.readShort (T + 4) = .error a := herr
    simp only [headerFields, h2, h4]
  | 2, _ =>
    obtain ⟨_, h2 : P.readShort (T + 2) = _⟩ := hok 0 (by omega)
    obtain ⟨_, h4 : P.readShort (T + 4) = _⟩ := hok 1 (by omega)
    have h6 : P.readShort (T + 6) = .error a := herr
    simp only [headerFields, h2, h4, h6]
  | 3, _ =>
    obtain ⟨_, h2 : P.readShort (T + 2) = _⟩ := hok 0 (by omega)
    obtain ⟨_, h4 : P.readShort (T + 4) = _⟩ := hok 1 (by omega)
    obtain ⟨_, h6 : P.readShort (T + 6) = _⟩ := hok 2 (by omega)
    have h8 : P.readShort (T + 8) = .error a := herr
    simp only [headerFields, h2, h4, h6, h8]

/-- The header's fault is at the first of its bytes outside the blob. -/
theorem headerFields_of_out (hm : 2 ≤ m) (hm' : m ≤ 9)
    (hin : ∀ j, 2 ≤ j → j < m → P.InBlob (T + BitVec.ofNat 16 j))
    (hout : ¬ P.InBlob (T + BitVec.ofNat 16 m)) :
    headerFields P T = .error (T + BitVec.ofNat 16 m) := by
  have hok (k' : Nat) (hk' : 2 * k' + 3 < m) :
      ∃ v, P.readShort (T + BitVec.ofNat 16 (2 * k' + 2)) = .ok v :=
    ⟨_, Params.readShort_at (hin _ (by omega) (by omega)) (hin _ (by omega) hk')⟩
  obtain ⟨k, rfl | rfl⟩ : ∃ k, m = 2 * k + 2 ∨ m = 2 * k + 3 := ⟨(m - 2) / 2, by omega⟩
  · exact headerFields_eq_error (k := k) (by omega) (fun k' hk' => hok k' (by omega))
      (Params.readShort_of_low_out hout)
  · exact headerFields_eq_error (k := k) (by omega) (fun k' hk' => hok k' (by omega))
      (Params.readShort_at_high_out (hin (2 * k + 2) (by omega) (by omega)) hout)

end Header

/-! ### LOAD's ends -/

/-- The state in which an accepted LOAD parses the header: a new session, nothing of it read yet. -/
def State.newSession (s : State) : State := { s with loaded := true, faulted := false, trace := [] }

section Load

variable {s : State} {sampleRate : Word32} {limit : Option Nat}

theorem State.load_of_title_out {a : Word} (hrate : rateAccepted sampleRate = true)
    (h : titleScan s.params Config.addressCount 0 = .out a) :
    s.load sampleRate limit = s.newSession.raise a none := by
  simp only [State.load, hrate, if_true, headerParse, h]
  rfl

theorem State.load_of_title_endless (hrate : rateAccepted sampleRate = true)
    (h : titleScan s.params Config.addressCount 0 = .endless) :
    s.load sampleRate limit = s.newSession.goto .hung := by
  simp only [State.load, hrate, if_true, headerParse, h]
  rfl

theorem State.load_of_header_out {T a : Word} (hrate : rateAccepted sampleRate = true)
    (hT : titleScan s.params Config.addressCount 0 = .found T)
    (h : headerFields s.params T = .error a) :
    s.load sampleRate limit = s.newSession.raise a none := by
  simp only [State.load, hrate, if_true, headerParse, hT, h]
  rfl

theorem State.load_of_header {T : Word} {header : Header} (hrate : rateAccepted sampleRate = true)
    (hT : titleScan s.params Config.addressCount 0 = .found T)
    (h : headerFields s.params T = .ok header) :
    s.load sampleRate limit =
      (s.newSession.startSession sampleRate limit header).complete .loaded := by
  simp only [State.load, hrate, if_true, headerParse, hT, h]
  rfl

theorem newSlot_startAddress (base off : Word) :
    newSlot (startAddress base off) = if off = 0 then none else some (Part.fresh (off + base)) := by
  unfold startAddress
  split <;> rfl

end Load

/-- Settles O47: it holds, by the title scan's stop at `T` and the header's four reads. -/
theorem loadResult : Obligations.LoadResult := by
  intro s sampleRate limit rest T ha hi hmin hmax htitle hin hT field slot q r
  have hrate : rateAccepted sampleRate = true := (rateAccepted_iff sampleRate).2 ⟨hmin, hmax⟩
  have hscan := titleScan_eq_found htitle hin hT
  let u : State := { s with inbox := rest }
  refine ⟨fun hheader => ?loads, fun m hm hm' hbelow hout => ?faults⟩
  case loads =>
    rw [step_serves ha hi, State.serve,
      State.load_of_header (s := u) hrate hscan (headerFields_eq_ok hheader), State.startSession,
      SamplesPerTick.init_eq, newSlot_startAddress, newSlot_startAddress, newSlot_startAddress,
      State.emitAll_eq]
    rfl
  case faults =>
    rw [step_serves ha hi, State.serve,
      State.load_of_header_out (s := u) hrate hscan (headerFields_of_out hm hm' hbelow hout)]
    exact congrArg (fun a => Host.Outcome.next { u.newSession.raise _ none with activity := a })
      ha.symm

/-- Settles O50: it holds, by the title scan's walk to the end of the blob or round it for ever. -/
theorem loadOfAnEndlessTitle : Obligations.LoadOfAnEndlessTitle := by
  intro s sampleRate limit rest ha hi hrate hnone
  let u : State := { s with inbox := rest }
  refine ⟨fun hshort => ?faults, fun hlong => ?hangs⟩
  case faults =>
    rw [step_serves ha hi, State.serve,
      State.load_of_title_out (s := u) hrate (titleScan_eq_out hshort hnone)]
    exact congrArg (fun a => Host.Outcome.next { u.newSession.raise _ none with activity := a })
      ha.symm
  case hangs =>
    rw [step_serves ha hi, State.serve,
      State.load_of_title_endless (s := u) hrate (titleScan_eq_endless hlong hnone)]
    rfl

end Sys2Proof.Machine
end

section
/-! What a step can do to a slot and to the trace (10_state.md R16, R24, R30): said once for each
operation, and read off for every step that starts no session. -/

namespace Sys2Proof

open Sys2Proof.Machine

/-! ### What six bytes decode to (30_encoding.md R52, R54) -/

/-- The six bytes fetched always decode, to a well-formed instruction of the opcode byte's row. -/
theorem Machine.Params.window_decodes (P : Params) (a : Word) :
    ∃ i rest, decode (P.window a) = .ok (i, rest) ∧ i.wellFormed = true ∧
      i.mnemonic = opcodeMnemonic (P.songByte a) := by
  obtain ⟨i, rest, hd, _, hm⟩ := decodeOpcode_takes (P.songByte a)
    (rest := [P.songByte (a + 1), P.songByte (a + 2), P.songByte (a + 3), P.songByte (a + 4),
      P.songByte (a + 5)]) (Nat.le_refl 5)
  exact ⟨i, rest, hd, (heads_of_decode (bytes := P.window a) hd).1, hm⟩

theorem Instr.Writes.isEnded {i : Instr} {p q : Part} (h : i.Writes p q)
    (hi : i.mnemonic ≠ "TERM") : q.isEnded = p.isEnded := by
  obtain ⟨_, _, _, hended, _⟩ := h.partFrame
  exact hended (by simpa using hi)

theorem Instr.Writes.infiniteLoopCount {i : Instr} {p q : Part} (h : i.Writes p q) :
    q.infiniteLoopCount = p.infiniteLoopCount ∨
      q.infiniteLoopCount = countUp p.infiniteLoopCount := by
  by_cases hi : i.mnemonic = "REPEAT_END"
  · cases i with
    | repeatEnd =>
      obtain ⟨_, _, _, rfl, _, hloops⟩ := h
      exact hloops
    | _ => simp [Instr.mnemonic] at hi
  · obtain ⟨_, _, _, _, _, _, hloops, _⟩ := h.partFrame
    exact .inl (hloops (by simpa using hi))

theorem octaveOf_le {pitch : BitVec 7} (h : pitch ≤ 0x5F) : octaveOf pitch ≤ 7 := by
  revert pitch
  decide

/-- An instruction that has an encoding keeps its Part legal (10_state.md R31). -/
theorem Instr.Writes.legal {i : Instr} {p q : Part} (h : i.Writes p q) (hi : i.wellFormed = true)
    (hp : p.Legal) : q.Legal := by
  obtain ⟨hvolume, hoctave, hdepth⟩ := hp
  cases i with
  | note pitch d tie =>
    obtain ⟨_, _, _, _, _, _, rfl, _⟩ := h
    exact ⟨hvolume, octaveOf_le (of_decide_eq_true hi), hdepth⟩
  | setVolume =>
    obtain ⟨_, _, rfl, hle⟩ := h
    exact ⟨hle hvolume, hoctave, hdepth⟩
  | volumeUp | volumeDown =>
    obtain ⟨_, rfl, hle⟩ := h
    exact ⟨hle hvolume, hoctave, hdepth⟩
  | repeatStart | repeatBreak =>
    obtain ⟨_, _, rfl, hle⟩ := h
    exact ⟨hvolume, hoctave, hle hdepth⟩
  | repeatEnd =>
    obtain ⟨_, _, _, rfl, hle, _⟩ := h
    exact ⟨hvolume, hoctave, hle hdepth⟩
  | rest | setPatch | setDetune | setLfo | lfoEnable | setNoise | setMix | term =>
    obtain ⟨_, _, hpitch, _, hvolume', _, _, hrs, _⟩ := h.partFrame
    obtain ⟨_, hoctave', _⟩ := hpitch (by simp [Instr.mnemonic])
    rw [Part.Legal, hvolume' (by simp [Instr.mnemonic]), hoctave', hrs (by simp [Instr.mnemonic])]
    exact ⟨hvolume, hoctave, hdepth⟩

end Sys2Proof

namespace Sys2Proof.Machine

open Sys2Proof

/-! ### A turn of a consume loop -/

theorem consuming_of_step {s t : State} {c : Caller} {ch : Channel}
    (ha : s.activity = .consuming c ch) (h : step s = .next t) : ∃ p, s.Consuming c ch p := by
  cases hp : s.slots.get ch with
  | some p => exact ⟨p, ha, hp⟩
  | none => simp [step, ha, consumeTurn, State.fetch, hp] at h

/-- A turn of a consume loop answers a next state, and this is all it can be: the opcode fetch
faults, or the row of the opcode byte is run past it. -/
theorem step_consuming {s : State} {c : Caller} {ch : Channel} {p : Part} (h : s.Consuming c ch p) :
    (¬ s.params.InBlob p.cursor ∧ step s = .next (s.raise p.cursor (some ch))) ∨
      ∃ (i : Instr) (t : State), s.params.InBlob p.cursor ∧ step s = .next t ∧ i.wellFormed = true ∧
        i.mnemonic = opcodeMnemonic (s.params.songByte p.cursor) ∧
        i.Ends (s.putPart ch { p with cursor := p.cursor + 1 }) c ch
          { p with cursor := p.cursor + 1 } t := by
  by_cases hin : s.params.InBlob p.cursor
  · obtain ⟨i, rest, hd, hwf, hm⟩ := s.params.window_decodes p.cursor
    obtain ⟨t, ht, hends⟩ := exec_ends (h.putPart { p with cursor := p.cursor + 1 }) i
    exact .inr ⟨i, t, hin, (step_of_decode h hin hd).trans ht, hwf, hm, hends⟩
  · exact .inl ⟨hin, step_of_opcode_out h hin⟩

/-- Settles O54: it holds, since the invariant has the Part at work present. -/
theorem invariantStatesNeverStop : Obligations.InvariantStatesNeverStop := by
  intro s hs
  cases ha : s.activity with
  | idle => exact ⟨_, step_of_idle ha⟩
  | producing n k => exact ⟨_, step_of_producing ha⟩
  | visiting c ch => exact ⟨_, step_of_visiting ha⟩
  | returned c ch alive => exact ⟨_, step_of_returned ha⟩
  | hung => exact ⟨s, by simp only [step, ha]⟩
  | consuming c ch =>
    obtain ⟨p, hp⟩ := Option.isSome_iff_exists.1 (hs.atWork ch (by simp [ha, Activity.atWork]))
    obtain ⟨_, ht⟩ | ⟨_, t, _, ht, _⟩ := step_consuming ⟨ha, hp⟩
    · exact ⟨_, ht⟩
    · exact ⟨t, ht⟩

/-! ### Requests that start no session -/

/-- What an idle block makes of its inbox where the next request is no accepted LOAD: it waits, it
reports, or PRODUCE, TICK or END is begun in a loaded session with no fault. -/
inductive State.Takes (s : State) : State → Prop
  | waits : s.Takes s
  | reports {rest : List Request} {r : Result} : s.Takes (({ s with inbox := rest }).complete r)
  | produces {rest : List Request} {n : Nat} (hl : s.loaded = true) (hf : s.faulted = false) :
    s.Takes { s with inbox := rest, buffer := [], activity := .producing n 0 }
  | ticks {rest : List Request} (hl : s.loaded = true) (hf : s.faulted = false) :
    s.Takes { s with inbox := rest, activity := .visiting .tick .ch0 }
  | ends {rest : List Request} (hl : s.loaded = true) (hf : s.faulted = false) :
    s.Takes (({ s with inbox := rest }).ctxEnd.complete .ended)

theorem State.accept_takes {s : State} (ha : s.activity = .idle) (h : ¬ s.AboutToLoad) :
    s.Takes s.accept := by
  cases hi : s.inbox with
  | nil =>
    rw [State.accept, hi]
    exact .waits
  | cons r rest =>
    rw [State.accept_of_inbox hi]
    have served (hr : ∀ sampleRate limit, r ≠ .load sampleRate limit)
        (hbegin : s.loaded = true → s.faulted = false →
          s.Takes (({ s with inbox := rest }).begin r)) :
        s.Takes (({ s with inbox := rest }).serve r) := by
      cases hg : ({ s with inbox := rest } : State).gate with
      | some reason =>
        rw [State.serve_of_gate_eq_some hg hr]
        exact .reports
      | none =>
        obtain ⟨hl, hf⟩ := (State.gate_eq_none_iff _).1 hg
        rw [State.serve_of_gate_eq_none hg]
        exact hbegin hl hf
    cases r with
    | load sampleRate limit =>
      have hrejected : rateAccepted sampleRate = false := by
        rw [← Bool.not_eq_true]
        exact fun haccepted => h ⟨ha, sampleRate, limit, rest, hi, haccepted⟩
      rw [State.serve, State.load_of_rejected hrejected]
      exact .reports
    | produce n => exact served (fun _ _ e => nomatch e) .produces
    | tick => exact served (fun _ _ e => nomatch e) .ticks
    | finish => exact served (fun _ _ e => nomatch e) .ends
    | isPlaying => exact served (fun _ _ e => nomatch e) fun _ _ => .reports

theorem State.takes_of_step {s t : State} (ha : s.activity = .idle) (h : step s = .next t)
    (hload : ¬ s.AboutToLoad) : s.Takes t := by
  cases (step_of_idle ha).symm.trans h
  exact State.accept_takes ha hload

/-! ### The slots -/

/-- What can become of channel `ch`'s slot in a step that starts no session. -/
inductive State.SlotStep (s : State) (ch : Channel) : Option Part → Prop
  | kept : s.SlotStep ch (s.slots.get ch)
  | removed : s.SlotStep ch none
  | ticked {c : Caller} {p : Part} {ticks : Byte} {lfo : Lfo} {env : Envelope}
    (ha : s.activity = .visiting c ch) (hp : s.slots.get ch = some p) :
    s.SlotStep ch (some { p with remainingTicks := ticks, lfo := lfo, env := env })
  | ran {c : Caller} {p q : Part} {i : Instr} (hp : s.Consuming c ch p) (hi : i.wellFormed = true)
    (hq : i.Writes { p with cursor := p.cursor + 1 } q) : s.SlotStep ch (some q)

@[simp] theorem State.afterChannel_slots (s : State) (c : Caller) (ch : Channel) :
    (s.afterChannel c ch).slots = s.slots := by
  obtain ⟨_, _, e⟩ | ⟨_, e⟩ | ⟨_, _, _, _, e⟩ | ⟨_, _, _, _, e⟩ := s.afterChannel_cases c ch <;>
    rw [e] <;> rfl

@[simp] theorem State.ctxEnd_get (s : State) (ch : Channel) : s.ctxEnd.slots.get ch = none := by
  rw [State.ctxEnd_slots]
  cases ch <;> rfl

/-- The loop policy ends every Part or changes nothing (47_play_context.md R116). -/
theorem State.applyLoopPolicy_cases (s : State) :
    s.applyLoopPolicy = s.ctxEnd ∨ s.applyLoopPolicy = s := by
  unfold State.applyLoopPolicy
  split
  · split
    · exact .inl rfl
    · exact .inr rfl
  · exact .inr rfl

theorem State.applyLoopPolicy_get (s : State) (ch : Channel) :
    s.applyLoopPolicy.slots.get ch = none ∨ s.applyLoopPolicy.slots.get ch = s.slots.get ch := by
  obtain e | e := s.applyLoopPolicy_cases <;> rw [e]
  · exact .inl (s.ctxEnd_get ch)
  · exact .inr rfl

/-- One turn of PRODUCE's loop reports the count, or pulls one sample and then goes on or begins a
tick (47_play_context.md R117). -/
theorem State.produceTurn_cases (s : State) (n k : Nat) :
    s.produceTurn n k = s.complete (.produced k) ∨
      s.playing = true ∧ s.spt.remaining = 1 ∧
        s.produceTurn n k =
          s.pull.applyLoopPolicy.goto (.visiting (.produce n (k + 1)) .ch0) ∨
      s.playing = true ∧ s.spt.remaining ≠ 1 ∧
        s.produceTurn n k = s.pull.goto (.producing n (k + 1)) := by
  by_cases h : k < n ∧ s.playing = true
  · obtain ⟨hk, hplaying⟩ := h
    rw [State.produceTurn_of_go hk hplaying]
    by_cases hlast : s.spt.remaining = 1
    · exact .inr (.inl ⟨hplaying, hlast, if_pos (s.pull_remaining_eq_zero_iff.2 hlast)⟩)
    · exact .inr (.inr ⟨hplaying, hlast,
        if_neg fun e => hlast (s.pull_remaining_eq_zero_iff.1 e)⟩)
  · exact .inl (if_neg h)

/-- A Part's tick writes its duration, its LFO and its envelope, and no other slot. -/
theorem State.partTick_get {s : State} {c : Caller} {ch : Channel} {p : Part}
    (hp : s.slots.get ch = some p) (ch' : Channel) :
    (s.partTick c ch p).slots.get ch' = s.slots.get ch' ∨
      ch' = ch ∧ ∃ ticks lfo env, (s.partTick c ch p).slots.get ch' =
        some { p with remainingTicks := ticks, lfo := lfo, env := env } := by
  cases hended : p.isEnded with
  | true =>
    rw [State.partTick_of_ended s c ch hended]
    exact .inl rfl
  | false =>
    by_cases hch : ch' = ch
    · subst hch
      by_cases hticks : p.remainingTicks = 1
      · rw [State.partTick_of_boundary s c ch' hended hticks]
        exact .inr ⟨rfl, 0, p.lfo, p.env, by simp [hended]⟩
      · rw [State.partTick_of_continuing s c ch' hended hticks]
        exact .inr ⟨rfl, p.remainingTicks - 1, p.lfo.update.1, p.env.update, by
          simp [Part.continued, hended]⟩
    · by_cases hticks : p.remainingTicks = 1
      · rw [State.partTick_of_boundary s c ch hended hticks]
        exact .inl (PerChannel.get_set_other _ hch _)
      · rw [State.partTick_of_continuing s c ch hended hticks]
        refine .inl ?_
        simp [PerChannel.get_set_other _ hch]

theorem State.visit_slotStep {s : State} {c : Caller} {ch : Channel}
    (ha : s.activity = .visiting c ch) (ch' : Channel) :
    s.SlotStep ch' ((s.visit c ch).slots.get ch') := by
  cases hp : s.slots.get ch with
  | none =>
    rw [State.visit_of_absent hp, State.afterChannel_slots]
    exact .kept
  | some p =>
    rw [State.visit_of_present hp]
    obtain e | ⟨rfl, ticks, lfo, env, e⟩ := State.partTick_get (c := c) hp ch' <;> rw [e]
    · exact .kept
    · exact .ticked ha hp

/-- Over a step that starts no session: one case for each activity. -/
theorem step_slotStep {s t : State} (h : step s = .next t) (hload : ¬ s.AboutToLoad)
    (ch : Channel) : s.SlotStep ch (t.slots.get ch) := by
  obtain ⟨ha, _⟩ | ⟨n, k, ha, rfl⟩ | ⟨c, ch', ha, rfl⟩ | ⟨c, ch', ha, _⟩ |
    ⟨c, ch', alive, ha, rfl⟩ | ⟨_, rfl⟩ := step_cases h
  · cases State.takes_of_step ha h hload with
    | waits | reports | produces | ticks => exact .kept
    | ends => exact (State.ctxEnd_get _ ch).symm ▸ .removed
  · obtain e | ⟨_, _, e⟩ | ⟨_, _, e⟩ := s.produceTurn_cases n k <;> rw [e]
    · exact .kept
    · obtain e' | e' := s.pull.applyLoopPolicy_get ch
      · exact e'.symm ▸ .removed
      · exact e'.symm ▸ .kept
    · exact .kept
  · exact State.visit_slotStep ha ch
  · obtain ⟨p, hp⟩ := consuming_of_step ha h
    obtain ⟨_, ht⟩ | ⟨i, t', _, ht, hwf, _, hends⟩ := step_consuming hp <;>
      cases h.symm.trans ht
    · exact .kept
    · obtain ⟨q, hslots, hq⟩ := hends.slots
      rw [hslots, State.putPart_slots, PerChannel.set_set, PerChannel.get_set]
      split
      next e =>
        subst e
        exact .ran hp hwf hq
      next => exact .kept
  · rw [State.leave, State.afterChannel_slots]
    cases alive with
    | true => exact .kept
    | false =>
      simp only [Bool.false_eq_true, if_false, State.dropPart_slots, PerChannel.get_set]
      split
      · exact .removed
      · exact .kept
  · exact .kept

/-- Settles O55: it holds, since no other step fills an absent slot. -/
theorem onlyLoadMakesASlotPresent : Obligations.OnlyLoadMakesASlotPresent := by
  intro s t ch h habsent hpresent
  by_contra hload
  have hslot := step_slotStep h hload ch
  generalize t.slots.get ch = slot at hslot hpresent
  cases hslot with
  | kept => simp [habsent] at hpresent
  | removed => simp at hpresent
  | ticked _ hp => simp [habsent] at hp
  | ran hp _ _ => cases habsent.symm.trans hp.2

theorem countUp_bounds (x : Word) :
    x.toNat ≤ (countUp x).toNat ∧ (countUp x).toNat ≤ x.toNat + 1 := by
  have hx := x.isLt
  rw [countUp_eq_ofNat, BitVec.toNat_ofNat]
  omega

/-- Settles O56: it holds, since REPEAT_END alone writes the count, and counts it up. -/
theorem loopCountNeverFalls : Obligations.LoopCountNeverFalls := by
  intro s t ch p q h hload hp hq
  have hslot := step_slotStep h hload ch
  rw [hq] at hslot
  generalize hslot' : some q = slot at hslot
  cases hslot with
  | kept =>
    cases hslot'.trans hp
    exact ⟨Nat.le_refl _, Nat.le_succ _⟩
  | removed => cases hslot'
  | ticked _ hp' =>
    cases hslot'
    cases hp.symm.trans hp'
    exact ⟨Nat.le_refl _, Nat.le_succ _⟩
  | ran hp' _ hwrites =>
    cases hslot'
    cases hp.symm.trans hp'.2
    obtain hkept | hcounted := hwrites.infiniteLoopCount
    · rw [hkept]
      exact ⟨Nat.le_refl _, Nat.le_succ _⟩
    · rw [hcounted]
      exact countUp_bounds _

/-- Settles O57: it holds, since only a turn of the Part's own consume loop writes its cursor. -/
theorem cursorMovesOnlyInTheConsumeLoop : Obligations.CursorMovesOnlyInTheConsumeLoop := by
  intro s t ch p q h hload hp hq hidle
  have hslot := step_slotStep h hload ch
  rw [hq] at hslot
  generalize hslot' : some q = slot at hslot
  cases hslot with
  | kept =>
    cases hslot'.trans hp
    rfl
  | removed => cases hslot'
  | ticked _ hp' =>
    cases hslot'
    cases hp.symm.trans hp'
    rfl
  | ran hp' _ _ => exact absurd hp'.1 (hidle _)

/-! ### The trace -/

/-- Where an event that is added to the trace comes from: a tone is some Part's, and a volume is 0
or that of the Part its channel's slot then holds. -/
def Event.From (t : State) : Event → Prop
  | .setTone _ v => ∃ p : Part, v = p.toneOut
  | .setVolume ch v => v = 0 ∨ ∃ p, t.slots.get ch = some p ∧ v = p.volOut
  | _ => True

/-- The trace of `t` is the trace of `s` and further events, each with its source in `t`. -/
def State.Extends (s t : State) : Prop := ∃ es, t.trace = s.trace ++ es ∧ ∀ e ∈ es, e.From t

theorem State.Extends.of_trace_eq {s t : State} (h : t.trace = s.trace) : s.Extends t :=
  ⟨[], by rw [h, List.append_nil], fun _ he => absurd he List.not_mem_nil⟩

theorem State.ctxEnd_extends (s : State) {t : State} (h : t.trace = s.ctxEnd.trace) :
    s.Extends t := by
  refine ⟨_, h.trans s.ctxEnd_trace, fun e he => ?_⟩
  obtain ⟨ch, _, rfl⟩ := List.mem_map.1 he
  exact .inl rfl

theorem State.applyLoopPolicy_extends (s : State) {t : State}
    (h : t.trace = s.applyLoopPolicy.trace) : s.Extends t := by
  obtain e | e := s.applyLoopPolicy_cases
  · exact s.ctxEnd_extends (h.trans (congrArg _ e))
  · exact .of_trace_eq (h.trans (congrArg _ e))

/-- A pull comes before the events that follow it. -/
theorem State.Extends.of_pull {s t : State} (h : s.pull.Extends t) : s.Extends t := by
  obtain ⟨es, htrace, hes⟩ := h
  refine ⟨.pull :: es, htrace.trans (List.append_assoc ..), fun e he => ?_⟩
  obtain rfl | he := List.mem_cons.1 he
  · trivial
  · exact hes e he

theorem Instr.events_from {i : Instr} {ch : Channel} {q : Part} {t : State}
    (h : t.slots.get ch = some q) : ∀ e ∈ i.events ch q, e.From t := by
  cases i with
  | note =>
    simp only [Instr.events, List.forall_mem_cons]
    exact ⟨⟨q, rfl⟩, .inr ⟨q, h, rfl⟩, fun _ he => absurd he List.not_mem_nil⟩
  | term =>
    simp only [Instr.events, List.forall_mem_cons]
    exact ⟨.inl rfl, fun _ he => absurd he List.not_mem_nil⟩
  | _ => simp [Instr.events, Event.From]

theorem State.partTick_extends {s : State} {c : Caller} {ch : Channel} {p : Part} :
    s.Extends (s.partTick c ch p) := by
  cases hended : p.isEnded with
  | true =>
    rw [State.partTick_of_ended s c ch hended]
    exact .of_trace_eq rfl
  | false =>
    by_cases hticks : p.remainingTicks = 1
    · rw [State.partTick_of_boundary s c ch hended hticks]
      exact .of_trace_eq rfl
    · rw [State.partTick_of_continuing s c ch hended hticks]
      refine ⟨_, State.emitAll_trace (s.putPart ch p.continued) _, ?_⟩
      have hvolume : (Event.setVolume ch p.continued.volOut).From
          (((s.putPart ch p.continued).emitAll
            (toneEvents ch p.lfo.update.2 p.continued ++
              [.setVolume ch p.continued.volOut])).goto (.returned c ch true)) :=
        .inr ⟨p.continued, by simp, rfl⟩
      intro e he
      obtain htone | hvol := List.mem_append.1 he
      · unfold toneEvents at htone
        split at htone
        · obtain rfl := List.mem_singleton.1 htone
          exact ⟨_, rfl⟩
        · exact absurd htone List.not_mem_nil
      · obtain rfl := List.mem_singleton.1 hvol
        exact hvolume

@[simp] theorem State.afterChannel_trace (s : State) (c : Caller) (ch : Channel) :
    (s.afterChannel c ch).trace = s.trace := by
  obtain ⟨_, _, e⟩ | ⟨_, e⟩ | ⟨_, _, _, _, e⟩ | ⟨_, _, _, _, e⟩ := s.afterChannel_cases c ch <;>
    rw [e] <;> rfl

theorem State.visit_extends (s : State) (c : Caller) (ch : Channel) :
    s.Extends (s.visit c ch) := by
  cases hp : s.slots.get ch with
  | none => exact .of_trace_eq (by rw [State.visit_of_absent hp, State.afterChannel_trace])
  | some p =>
    rw [State.visit_of_present hp]
    exact State.partTick_extends

/-- Over a step that starts no session: one case for each activity. -/
theorem step_extends {s t : State} (h : step s = .next t) (hload : ¬ s.AboutToLoad) :
    s.Extends t := by
  obtain ⟨ha, _⟩ | ⟨n, k, ha, rfl⟩ | ⟨c, ch, ha, rfl⟩ | ⟨c, ch, ha, _⟩ |
    ⟨c, ch, alive, ha, rfl⟩ | ⟨_, rfl⟩ := step_cases h
  · cases State.takes_of_step ha h hload with
    | waits | reports | produces | ticks => exact .of_trace_eq rfl
    | @ends rest => exact State.ctxEnd_extends { s with inbox := rest } rfl
  · obtain e | ⟨_, _, e⟩ | ⟨_, _, e⟩ := s.produceTurn_cases n k <;> rw [e]
    · exact .of_trace_eq rfl
    · exact .of_pull (s.pull.applyLoopPolicy_extends rfl)
    · exact .of_pull (.of_trace_eq rfl)
  · exact s.visit_extends c ch
  · obtain ⟨p, hp⟩ := consuming_of_step ha h
    obtain ⟨_, ht⟩ | ⟨i, t', _, ht, _, _, hends⟩ := step_consuming hp <;>
      cases h.symm.trans ht
    · exact .of_trace_eq rfl
    · obtain ⟨q, hget, htrace, _⟩ | ⟨htrace, _⟩ := hends.trace
      · exact ⟨_, htrace, Instr.events_from hget⟩
      · exact .of_trace_eq htrace
  · refine .of_trace_eq ?_
    rw [State.leave, State.afterChannel_trace]
    cases alive <;> rfl
  · exact .of_trace_eq rfl

/-- Settles O58: it holds for every step that starts no session. -/
theorem traceOnlyGrows : Obligations.TraceOnlyGrows := by
  intro s t h hload
  obtain ⟨es, htrace, _⟩ := step_extends h hload
  exact ⟨es, htrace⟩

end Sys2Proof.Machine
end

section
/-! The invariant (10_state.md R31): what it says apart from where the operation stands, and that
every step keeps it, activity by activity. -/

namespace Sys2Proof.Machine

open Sys2Proof

/-! ### The invariant apart from the activity -/

/-- What the invariant says of the parameters, the Parts and the converter where no Part has ended.
-/
structure State.Sound (s : State) : Prop where
  song : s.params.song.wf = true
  blob : 1 ≤ s.params.blobLen ∧ s.params.blobLen ≤ 65536
  parts : ∀ ch p, s.slots.get ch = some p → p.Legal ∧ p.isEnded = false
  converter : s.playing = true → s.spt.Legal

theorem State.playing_of_get {s : State} {ch : Channel} {p : Part} (h : s.slots.get ch = some p) :
    s.playing = true := s.playing_iff_exists_present.2 ⟨ch, p, h⟩

theorem State.playing_congr {s t : State} (h : t.slots = s.slots) : t.playing = s.playing := by
  simp only [State.playing, h]

theorem State.playing_eq_false_of_absent {s : State} (h : ∀ ch, s.slots.get ch = none) :
    s.playing = false := by
  rw [← Bool.not_eq_true, State.playing_iff_exists_present]
  rintro ⟨ch, p, hp⟩
  cases (h ch).symm.trans hp

/-- An ended Part is about to be removed; anywhere else no Part has ended. -/
theorem State.Inv.sound {s : State} (h : s.Inv) (ha : ∀ c ch, s.activity ≠ .returned c ch false) :
    s.Sound where
  song := h.song
  blob := h.blob
  parts ch p hp := ⟨h.parts ch p hp, by
    by_contra hended
    obtain ⟨c, hc⟩ := h.ended ch p hp (by simpa using hended)
    exact ha c ch hc⟩
  converter := h.converter

/-- The parameters are never written, so soundness is a matter of the slots and the converter. -/
theorem State.Sound.of_slots {s t : State} (h : s.Sound) (hP : t.params = s.params)
    (hslots : ∀ ch p, t.slots.get ch = some p → p.Legal ∧ p.isEnded = false)
    (hspt : t.playing = true → t.spt.Legal) : t.Sound :=
  ⟨hP ▸ h.song, hP ▸ h.blob, hslots, hspt⟩

theorem State.Sound.of_same {s t : State} (h : s.Sound) (hP : t.params = s.params)
    (hslots : t.slots = s.slots) (hspt : t.spt = s.spt) : t.Sound :=
  h.of_slots hP (hslots ▸ h.parts) (State.playing_congr hslots ▸ hspt ▸ h.converter)

/-- With every slot absent nothing of the Parts and the converter is left to say. -/
theorem State.Sound.of_absent {s t : State} (h : s.Sound) (hP : t.params = s.params)
    (hslots : ∀ ch, t.slots.get ch = none) : t.Sound :=
  h.of_slots hP (fun ch p hp => nomatch (hslots ch).symm.trans hp) fun hplaying =>
    absurd hplaying (by simp [State.playing_eq_false_of_absent hslots])

/-- Where the operation stands in a session with no fault, the invariant asks for the Part at work
and for the budget. -/
theorem State.Sound.inv_of_session {s : State} (h : s.Sound) (hl : s.loaded = true)
    (hf : s.faulted = false)
    (hwork : ∀ ch, s.activity.atWork = some ch → (s.slots.get ch).isSome = true)
    (hbudget : s.playing = true → s.activity.Budgeted → s.spt.remaining ≠ 0) : s.Inv where
  song := h.song
  blob := h.blob
  parts ch p hp := (h.parts ch p hp).1
  ended ch p hp hended := absurd hended (by simp [(h.parts ch p hp).2])
  atWork := hwork
  converter := h.converter
  budget _ := hbudget
  session _ := hl
  stopped hfaulted := absurd hfaulted (by simp [hf])

/-- An idle block asks for the budget where no fault has been taken, and for a session. -/
theorem State.Sound.inv_of_idle {s : State} (h : s.Sound) (ha : s.activity = .idle)
    (hbudget : s.faulted = false → s.playing = true → s.spt.remaining ≠ 0)
    (hsession : s.playing = true → s.loaded = true) : s.Inv where
  song := h.song
  blob := h.blob
  parts ch p hp := (h.parts ch p hp).1
  ended ch p hp hended := absurd hended (by simp [(h.parts ch p hp).2])
  atWork ch hch := by simp [ha, Activity.atWork] at hch
  converter := h.converter
  budget hf hplaying _ := hbudget hf hplaying
  session := fun hs => hs.elim hsession fun hne => absurd ha hne
  stopped _ := ha

/-- An operation in progress is in a session with no fault. -/
theorem State.Inv.in_session {s : State} (h : s.Inv) (ha : s.activity ≠ .idle) :
    s.loaded = true ∧ s.faulted = false :=
  ⟨h.session (.inr ha), Bool.eq_false_iff.2 fun hf => ha (h.stopped hf)⟩

/-! ### An idle block -/

theorem Part.fresh_legal (start : Word) : (Part.fresh start).Legal ∧
    (Part.fresh start).isEnded = false := by
  have hvolume : (15 : Byte) ≤ 15 := by decide
  have hoctave : (0 : Byte) ≤ 7 := by decide
  exact ⟨⟨hvolume, hoctave, Nat.zero_le _⟩, rfl⟩

theorem newSlot_sound {start : Option Word} {p : Part} (h : newSlot start = some p) :
    p.Legal ∧ p.isEnded = false := by
  obtain ⟨a, _, rfl⟩ := Option.map_eq_some_iff.1 h
  exact Part.fresh_legal a

theorem State.startSession_sound {s : State} (h : s.Sound) {sampleRate : Word32}
    (hrate : rateAccepted sampleRate = true) (limit : Option Nat) (header : Header) :
    (s.startSession sampleRate limit header).Sound := by
  refine h.of_slots (State.startSession_params ..) (fun ch p hp => ?_) fun _ =>
    (SamplesPerTick.init_legal hrate).1
  cases ch <;> exact newSlot_sound hp

/-- An accepted LOAD faults or hangs with the slots as they were, or starts a session of fresh Parts
with a primed converter. -/
theorem State.load_inv {s : State} (h : s.Sound) {sampleRate : Word32}
    (hrate : rateAccepted sampleRate = true) (limit : Option Nat) :
    (s.load sampleRate limit).Inv := by
  have hnew : s.newSession.Sound := h.of_same rfl rfl rfl
  have hfault (x : Word) : (s.newSession.raise x none).Inv :=
    State.Sound.inv_of_idle (hnew.of_same rfl rfl rfl) rfl (fun hf => nomatch hf) fun _ => rfl
  cases hscan : titleScan s.params Config.addressCount 0 with
  | out x => exact State.load_of_title_out hrate hscan ▸ hfault x
  | endless =>
    rw [State.load_of_title_endless hrate hscan]
    exact State.Sound.inv_of_session (hnew.of_same rfl rfl rfl) rfl rfl
      (fun _ hch => nomatch hch) fun _ hb => hb.elim
  | found T =>
    cases hheader : headerFields s.params T with
    | error x => exact State.load_of_header_out hrate hscan hheader ▸ hfault x
    | ok header =>
      rw [State.load_of_header hrate hscan hheader]
      have hstart := State.startSession_sound hnew hrate limit header
      exact State.Sound.inv_of_idle (hstart.of_same rfl rfl rfl) rfl
        (fun _ _ => (SamplesPerTick.init_legal hrate).2) fun _ => by
          simp [State.startSession, State.newSession]

theorem State.Inv.accept {s : State} (h : s.Inv) (ha : s.activity = .idle) : s.accept.Inv := by
  have hsound : s.Sound := h.sound fun c ch e => by simp [ha] at e
  have hbudget : s.faulted = false → s.playing = true → s.spt.remaining ≠ 0 := fun hf hplaying =>
    h.budget hf hplaying (by rw [ha]; trivial)
  by_cases hload : s.AboutToLoad
  · obtain ⟨_, sampleRate, limit, rest, hi, hrate⟩ := hload
    rw [State.accept_of_inbox hi]
    exact State.load_inv (s := { s with inbox := rest }) (hsound.of_same rfl rfl rfl) hrate limit
  · have htakes := State.accept_takes ha hload
    generalize s.accept = t at htakes
    cases htakes with
    | waits => exact h
    | @reports rest r =>
      exact State.Sound.inv_of_idle (hsound.of_same rfl rfl rfl) rfl hbudget
        fun hplaying => h.session (.inl hplaying)
    | @produces rest n hl hf =>
      exact State.Sound.inv_of_session (hsound.of_same rfl rfl rfl) hl hf
        (fun _ hch => nomatch hch) fun hplaying _ => hbudget hf hplaying
    | @ticks rest hl hf =>
      exact State.Sound.inv_of_session (hsound.of_same rfl rfl rfl) hl hf
        (fun _ hch => nomatch hch) fun hplaying _ => hbudget hf hplaying
    | @ends rest hl hf =>
      have habsent := State.ctxEnd_get { s with inbox := rest }
      have hplaying : ((State.ctxEnd { s with inbox := rest }).complete .ended).playing = false :=
        State.playing_eq_false_of_absent habsent
      exact State.Sound.inv_of_idle (hsound.of_absent (State.ctxEnd_params _) habsent) rfl
        (fun _ h' => nomatch hplaying.symm.trans h') fun h' => nomatch hplaying.symm.trans h'

/-! ### The ticks -/

/-- After a channel's turn in a tick whose budget holds for a host TICK. -/
theorem State.Sound.afterChannel_inv {s : State} (h : s.Sound) (hl : s.loaded = true)
    (hf : s.faulted = false) {c : Caller}
    (hbudget : c = .tick → s.playing = true → s.spt.remaining ≠ 0) (ch : Channel) :
    (s.afterChannel c ch).Inv := by
  obtain ⟨ch', _, e⟩ | ⟨rfl, e⟩ | ⟨n, k, _, hplaying, e⟩ | ⟨n, k, _, hplaying, e⟩ :=
    s.afterChannel_cases c ch <;> rw [e]
  · exact State.Sound.inv_of_session (h.of_same rfl rfl rfl) hl hf
      (fun _ hch => nomatch hch) fun hplaying hc => hbudget hc hplaying
  · exact State.Sound.inv_of_idle (h.of_same rfl rfl rfl) rfl
      (fun _ hplaying => hbudget rfl hplaying) fun _ => hl
  · exact State.Sound.inv_of_idle (h.of_same rfl rfl rfl) rfl
      (fun _ hplaying' => nomatch hplaying.symm.trans hplaying') fun _ => hl
  · have hrefill := (h.converter hplaying).refill
    exact State.Sound.inv_of_session (h.of_slots rfl h.parts fun _ => hrefill.1) hl hf
      (fun _ hch => nomatch hch) fun _ _ => hrefill.2

theorem State.Inv.produceTurn {s : State} (h : s.Inv) {n k : Nat}
    (ha : s.activity = .producing n k) : (s.produceTurn n k).Inv := by
  have hsound : s.Sound := h.sound fun c ch e => by simp [ha] at e
  obtain ⟨hl, hf⟩ := h.in_session (by simp [ha])
  have hbudget : s.playing = true → s.spt.remaining ≠ 0 := fun hplaying =>
    h.budget hf hplaying (by rw [ha]; trivial)
  have hpull (hplaying : s.playing = true) : s.pull.Sound :=
    hsound.of_slots rfl hsound.parts fun _ => by
      obtain ⟨hq, hq', hr, hlo, hhi, hrem⟩ := hsound.converter hplaying
      have hpos : (1 : Word32) ≤ s.spt.remaining :=
        Nat.one_le_iff_ne_zero.2 fun e => hbudget hplaying (BitVec.eq_of_toNat_eq e)
      have hspend : s.pull.spt.remaining.toNat = s.spt.remaining.toNat - 1 :=
        BitVec.toNat_sub_of_le hpos
      exact ⟨hq, hq', hr, hlo, hhi, hspend ▸ Nat.le_trans (Nat.sub_le _ _) hrem⟩
  obtain e | ⟨hplaying, hlast, e⟩ | ⟨hplaying, hmore, e⟩ := s.produceTurn_cases n k <;> rw [e]
  · exact State.Sound.inv_of_idle (hsound.of_same rfl rfl rfl) rfl (fun _ => hbudget) fun _ => hl
  · have hpolicy : s.pull.applyLoopPolicy.Sound ∧ s.pull.applyLoopPolicy.loaded = true ∧
        s.pull.applyLoopPolicy.faulted = false := by
      obtain e' | e' := s.pull.applyLoopPolicy_cases <;> rw [e']
      · exact ⟨(hpull hplaying).of_absent (State.ctxEnd_params _) s.pull.ctxEnd_get,
          by rw [State.ctxEnd_frame]; exact hl, by rw [State.ctxEnd_frame]; exact hf⟩
      · exact ⟨hpull hplaying, hl, hf⟩
    obtain ⟨hs, hl', hf'⟩ := hpolicy
    exact State.Sound.inv_of_session (hs.of_same rfl rfl rfl) hl' hf'
      (fun _ hch => nomatch hch) fun _ hc => nomatch hc
  · exact State.Sound.inv_of_session ((hpull hplaying).of_same rfl rfl rfl) hl hf
      (fun _ hch => nomatch hch) fun _ _ hzero =>
        hmore (s.pull_remaining_eq_zero_iff.1 hzero)

/-- A slot's Part is replaced by a legal one that has not ended. -/
theorem State.Sound.of_set {s t : State} (h : s.Sound) {ch : Channel} {p q : Part}
    (hp : s.slots.get ch = some p) (hP : t.params = s.params)
    (hslots : t.slots = s.slots.set ch (some q)) (hspt : t.spt = s.spt)
    (hq : q.Legal ∧ q.isEnded = false) : t.Sound := by
  refine h.of_slots hP (fun ch' p' hp' => ?_) fun _ =>
    hspt ▸ h.converter (State.playing_of_get hp)
  rw [hslots, PerChannel.get_set] at hp'
  split at hp'
  · cases hp'
    exact hq
  · exact h.parts ch' p' hp'

theorem State.Inv.visit {s : State} (h : s.Inv) {c : Caller} {ch : Channel}
    (ha : s.activity = .visiting c ch) : (s.visit c ch).Inv := by
  have hsound : s.Sound := h.sound fun c ch e => by simp [ha] at e
  obtain ⟨hl, hf⟩ := h.in_session (by simp [ha])
  have hbudget : c = .tick → s.playing = true → s.spt.remaining ≠ 0 := fun hc hplaying =>
    h.budget hf hplaying (by rw [ha]; exact hc)
  cases hp : s.slots.get ch with
  | none =>
    rw [State.visit_of_absent hp]
    exact hsound.afterChannel_inv hl hf hbudget ch
  | some p =>
    obtain ⟨hlegal, hlive⟩ := hsound.parts ch p hp
    have hplaying := State.playing_of_get hp
    rw [State.visit_of_present hp]
    by_cases hticks : p.remainingTicks = 1
    · rw [State.partTick_of_boundary s c ch hlive hticks]
      refine State.Sound.inv_of_session (hsound.of_set hp rfl rfl rfl ⟨hlegal, hlive⟩) hl hf ?_
        fun _ hc => hbudget hc hplaying
      rintro _ ⟨⟩
      simp
    · rw [State.partTick_of_continuing s c ch hlive hticks]
      refine State.Sound.inv_of_session
        (hsound.of_set (q := p.continued) hp (by simp) (by simp) (by simp) ⟨hlegal, hlive⟩)
        (by simpa using hl) (by simpa using hf) ?_ fun _ hc => ?_
      · rintro _ ⟨⟩
        simp
      · simpa using hbudget hc hplaying

theorem State.Inv.leave {s : State} (h : s.Inv) {c : Caller} {ch : Channel} {alive : Bool}
    (ha : s.activity = .returned c ch alive) : (s.leave c ch alive).Inv := by
  obtain ⟨hl, hf⟩ := h.in_session (by simp [ha])
  have hbudget (hc : c = .tick) (hplaying : s.playing = true) : s.spt.remaining ≠ 0 :=
    h.budget hf hplaying (by rw [ha]; exact hc)
  cases alive with
  | true =>
    exact (h.sound fun c ch e => by simp [ha] at e).afterChannel_inv hl hf hbudget ch
  | false =>
    have hkept {ch' : Channel} {p : Part} (hp : (s.dropPart ch).slots.get ch' = some p) :
        ch' ≠ ch ∧ s.slots.get ch' = some p := by
      rw [State.dropPart_slots, PerChannel.get_set] at hp
      split at hp
      · cases hp
      next hne => exact ⟨hne, hp⟩
    have hplaying (hdrop : (s.dropPart ch).playing = true) : s.playing = true := by
      obtain ⟨ch', p, hp⟩ := (State.playing_iff_exists_present _).1 hdrop
      exact State.playing_of_get (hkept hp).2
    have hsound : (s.dropPart ch).Sound := by
      refine ⟨h.song, h.blob, fun ch' p hp => ?_, fun hdrop => h.converter (hplaying hdrop)⟩
      obtain ⟨hne, hp'⟩ := hkept hp
      refine ⟨h.parts ch' p hp', Bool.eq_false_iff.2 fun hended => ?_⟩
      obtain ⟨c', hc'⟩ := h.ended ch' p hp' hended
      cases ha.symm.trans hc'
      exact hne rfl
    exact hsound.afterChannel_inv hl hf (fun hc hdrop => hbudget hc (hplaying hdrop)) ch

/-! ### The consume loop -/

/-- TERM's end: its own Part alone has ended, and its tick has just returned. -/
theorem State.Sound.inv_of_term {s t : State} (h : s.Sound) {c : Caller} {ch : Channel}
    {p q : Part} (hp : s.slots.get ch = some p) (hq : q.Legal) (hP : t.params = s.params)
    (hslots : t.slots = s.slots.set ch (some q)) (hspt : t.spt = s.spt)
    (ha : t.activity = .returned c ch false) (hl : t.loaded = true) (hf : t.faulted = false)
    (hbudget : c = .tick → s.spt.remaining ≠ 0) : t.Inv := by
  have hget {ch' : Channel} {p' : Part} (hp' : t.slots.get ch' = some p') :
      ch' = ch ∧ p' = q ∨ s.slots.get ch' = some p' := by
    rw [hslots, PerChannel.get_set] at hp'
    split at hp'
    next hch => exact .inl ⟨hch, (Option.some.inj hp').symm⟩
    next => exact .inr hp'
  refine
    { song := hP ▸ h.song, blob := hP ▸ h.blob, parts := fun ch' p' hp' => ?_
      ended := fun ch' p' hp' hended => ?_, atWork := fun ch' hch => ?_
      converter := fun _ => hspt ▸ h.converter (State.playing_of_get hp)
      budget := fun _ _ hb => hspt ▸ hbudget (by rw [ha] at hb; exact hb)
      session := fun _ => hl, stopped := fun hfaulted => nomatch hf.symm.trans hfaulted }
  · obtain ⟨_, rfl⟩ | hold := hget hp'
    · exact hq
    · exact (h.parts ch' p' hold).1
  · obtain ⟨rfl, _⟩ | hold := hget hp'
    · exact ⟨c, ha⟩
    · exact nomatch (h.parts ch' p' hold).2.symm.trans hended
  · rw [ha] at hch
    obtain rfl := Option.some.inj hch
    simp [hslots]

theorem State.Inv.consume {s t : State} (h : s.Inv) {c : Caller} {ch : Channel} {p : Part}
    (hc : s.Consuming c ch p) (hstep : step s = .next t) : t.Inv := by
  have hsound : s.Sound := h.sound fun c ch e => by simp [hc.1] at e
  obtain ⟨hl, hf⟩ := h.in_session (by simp [hc.1])
  have hplaying := State.playing_of_get hc.2
  obtain ⟨hlegal, hlive⟩ := hsound.parts ch p hc.2
  obtain ⟨_, ht⟩ | ⟨i, t', _, ht, hwf, _, hends⟩ := step_consuming hc <;>
    cases hstep.symm.trans ht
  · exact State.Sound.inv_of_idle (hsound.of_same rfl rfl rfl) rfl (fun hf' => nomatch hf')
      fun _ => hl
  have hbudget (hb : c = .tick) : s.spt.remaining ≠ 0 :=
    h.budget hf hplaying (by rw [hc.1]; exact hb)
  have hstate {t : State} {q : Part} (hP : t.params = s.params)
      (hslots : t.slots = s.slots.set ch (some q)) (hspt : t.spt = s.spt)
      (hq : i.Writes { p with cursor := p.cursor + 1 } q) (hi : i.mnemonic ≠ "TERM") : t.Sound :=
    hsound.of_set hc.2 hP hslots hspt ⟨hq.legal hwf hlegal, (hq.isEnded hi).trans hlive⟩
  cases hends with
  | @goesOn q hq hi =>
    refine State.Sound.inv_of_session
      (hstate (by simp) (by simp) (by simp) hq fun e => hi (by simp [e]))
      (by simpa using hl) (by simpa using hf) ?_ ?_
    · simp [hc.1, Activity.atWork]
    · simpa [hc.1, Activity.Budgeted] using fun _ => hbudget
  | @returns q alive hq hi =>
    obtain ⟨hi, rfl⟩ | ⟨hi, rfl⟩ := hi
    · refine State.Sound.inv_of_session
        (hstate (by simp) (by simp) (by simp) hq fun e => by simp [e] at hi)
        (by simpa using hl) (by simpa using hf) ?_ ?_
      · simp [Activity.atWork]
      · simpa [Activity.Budgeted] using fun _ => hbudget
    · exact hsound.inv_of_term hc.2 (hq.legal hwf hlegal) (by simp) (by simp) (by simp) rfl
        (by simpa using hl) (by simpa using hf) hbudget
  | @faults q a hq hi =>
    exact State.Sound.inv_of_idle (hstate rfl (by simp) rfl hq hi) rfl (fun hf' => nomatch hf')
      fun _ => hl
  | @hangs q hq hi =>
    exact State.Sound.inv_of_session (hstate rfl (by simp) rfl hq (by simp [hi])) hl hf
      (fun _ hch => nomatch hch) fun _ hb => hb.elim

/-! ### Every step -/

/-- Settles O52: it holds, activity by activity. -/
theorem stepKeepsTheInvariant : Obligations.StepKeepsTheInvariant := by
  intro s t h hstep
  obtain ⟨ha, rfl⟩ | ⟨n, k, ha, rfl⟩ | ⟨c, ch, ha, rfl⟩ | ⟨c, ch, ha, _⟩ |
    ⟨c, ch, alive, ha, rfl⟩ | ⟨_, rfl⟩ := step_cases hstep
  · exact h.accept ha
  · exact h.produceTurn ha
  · exact h.visit ha
  · obtain ⟨p, hp⟩ := consuming_of_step ha hstep
    exact h.consume hp hstep
  · exact h.leave ha
  · exact h

/-! ### The events (20_memory.md section 3) -/

theorem clampPeriod_toNat (x : Int) : ((clampPeriod x).toNat : Int) = min (max x 1) 4095 := by
  have hlo : 1 ≤ min (max x 1) 4095 := by omega
  have hhi : min (max x 1) 4095 ≤ 4095 := by omega
  have hval : clampPeriod x = BitVec.ofInt 12 (min (max x 1) 4095) := rfl
  rw [hval, BitVec.toNat_ofInt]
  omega

theorem Part.toneOut_pos (p : Part) : 1 ≤ p.toneOut.toNat := by
  have h := clampPeriod_toNat (p.toneSum >>> p.octave.toNat)
  unfold Part.toneOut
  omega

/-- Settles O59: it holds, since a tone period is clamped and a legal Part's volume at most 14. -/
theorem emittedValuesAreInRange : Obligations.EmittedValuesAreInRange := by
  intro s t es h hstep hload htrace
  obtain ⟨es', htrace', hfrom⟩ := step_extends hstep hload
  obtain rfl : es = es' := List.append_cancel_left (htrace.symm.trans htrace')
  refine ⟨fun ch v hv => ?tone, fun ch v hv => ?volume⟩
  case tone =>
    obtain ⟨p, rfl⟩ := hfrom _ hv
    exact p.toneOut_pos
  case volume =>
    obtain rfl | ⟨p, hp, rfl⟩ := hfrom _ hv
    · exact Nat.zero_le _
    · obtain ⟨hvolume, _⟩ := (stepKeepsTheInvariant s t h hstep).parts ch p hp
      exact (volOutIsTheScaledProduct p hvolume).2

end Sys2Proof.Machine
end

section
/-! Operations that never complete (60_exceptions.md R122): a set of states that are not idle and
that every step stays in, and the three such sets the rule names. -/

namespace Sys2Proof.Machine

open Sys2Proof

/-- From a state of a set that no step leaves, in which no state is idle, nothing completes. -/
theorem State.neverCompletes_of_closed {I : State → Prop} (hbusy : ∀ t, I t → t.activity ≠ .idle)
    (hstep : ∀ t, I t → ∃ u, step t = .next u ∧ I u) {s : State} (hs : I s) : s.NeverCompletes := by
  have hrun (k : Nat) : ∃ t : State, Sys2Proof.core.run k s = .next t ∧ I t := by
    induction k with
    | zero => exact ⟨s, rfl, hs⟩
    | succ k ih =>
      obtain ⟨t, hk, ht⟩ := ih
      obtain ⟨u, hu, hIu⟩ := hstep t ht
      exact ⟨u, (core_run_succ Sys2Proof.core k hk).trans hu, hIu⟩
  intro k
  obtain ⟨t, hk, ht⟩ := hrun k
  exact ⟨t, hk, hbusy t ht⟩

theorem step_of_hung {s : State} (h : s.activity = .hung) : step s = .next s := by
  simp only [step, h]

/-! ### A consume loop that reads no REST, NOTE or terminator -/

theorem opcodeMnemonic_of_keepsConsuming {op : Byte} (h : KeepsConsuming op) :
    opcodeMnemonic op ∉ ["REST", "NOTE", "TERM"] := by
  unfold KeepsConsuming at h
  revert op
  decide

/-- A turn that neither faults nor reads such an opcode leaves the loop going, or hanging. -/
theorem step_keeps_consuming {s t : State} {c : Caller} {ch : Channel} {p : Part}
    (h : s.Consuming c ch p) (hop : KeepsConsuming (s.params.songByte p.cursor))
    (hstep : step s = .next t) (hfault : t.faulted = false) :
    t.activity = .hung ∨ ∃ q, t.Consuming c ch q := by
  obtain ⟨_, ht⟩ | ⟨i, u, _, hu, _, hm, hends⟩ := step_consuming h
  · cases hstep.symm.trans ht
    cases hfault
  · cases hstep.symm.trans hu
    have hi := hm ▸ opcodeMnemonic_of_keepsConsuming hop
    cases hends with
    | @goesOn q _ _ => exact .inr ⟨q, by simpa using h.1, by simp⟩
    | returns _ hreturns =>
      obtain ⟨hmem, _⟩ | ⟨hterm, _⟩ := hreturns
      · exact absurd (List.mem_append_left ["TERM"] hmem) hi
      · exact absurd (by simp [hterm]) hi
    | faults _ _ => cases hfault
    | hangs _ _ => exact .inl rfl

/-- On the run from `s` a consume loop of channel `ch` goes on, or has come to a scan that hangs. -/
def State.LoopsOn (s : State) (c : Caller) (ch : Channel) (t : State) : Prop :=
  (∃ k, Sys2Proof.core.run k s = .next t) ∧ (t.activity = .hung ∨ ∃ q, t.Consuming c ch q)

theorem step_stays_loopsOn {s t : State} {c : Caller} {ch : Channel}
    (hrun : ∀ (k : Nat) (t : State), Sys2Proof.core.run k s = .next t →
      t.faulted = false ∧ ∀ q, t.Consuming c ch q → KeepsConsuming (t.params.songByte q.cursor))
    (ht : s.LoopsOn c ch t) : ∃ u, step t = .next u ∧ s.LoopsOn c ch u := by
  obtain ⟨⟨k, hk⟩, hhung | ⟨q, hq⟩⟩ := ht
  · have hstep := step_of_hung hhung
    exact ⟨t, hstep, ⟨k + 1, (core_run_succ Sys2Proof.core k hk).trans hstep⟩, .inl hhung⟩
  · have hnext : ∃ u, step t = .next u := by
      obtain ⟨_, hu⟩ | ⟨_, u, _, hu, _⟩ := step_consuming hq
      · exact ⟨_, hu⟩
      · exact ⟨u, hu⟩
    obtain ⟨u, hu⟩ := hnext
    have hk' : Sys2Proof.core.run (k + 1) s = .next u :=
      (core_run_succ Sys2Proof.core k hk).trans hu
    obtain ⟨hfault, _⟩ := hrun (k + 1) u hk'
    obtain ⟨_, hop⟩ := hrun k t hk
    exact ⟨u, hu, ⟨k + 1, hk'⟩, step_keeps_consuming hq (hop q hq) hu hfault⟩

/-! ### The spec's own example, `E2 00 E4` -/

/-- The loop at address `a` is entered, or its frame stands and the cursor is at its REPEAT_END. -/
def State.InEmptyLoop (P : Params) (c : Caller) (ch : Channel) (a : Word) (t : State) : Prop :=
  t.params = P ∧ ∃ q, t.Consuming c ch q ∧
    (q.cursor = a ∧ q.rs.length < 8 ∨
      q.cursor = a + 2 ∧ ∃ f rest, q.rs = f :: rest ∧ f.count = 0 ∧ f.start = a + 2)

theorem step_stays_inEmptyLoop {s t : State} {c : Caller} {ch : Channel} {a : Word}
    (hb : s.BytesAt a [0xE2, 0x00, 0xE4]) (ht : State.InEmptyLoop s.params c ch a t) :
    ∃ u, step t = .next u ∧ State.InEmptyLoop s.params c ch a u := by
  obtain ⟨hP, q, hq, hplace⟩ := ht
  obtain ⟨hin0, hb0, hin1, hb1, hin2, hb2, _⟩ := hb
  have ha2 : a + 1 + 1 = a + 2 := BitVec.add_assoc ..
  rw [ha2] at hin2 hb2
  rw [← hP] at hin0 hb0 hin1 hb1 hin2 hb2
  obtain ⟨rfl, hroom⟩ | ⟨hcursor, f, rest, hrs, hcount, hstart⟩ := hplace
  · have hstep := (repeatStartResult t c ch q 0 hq).1 ⟨hin0, hb0, hin1, hb1, trivial⟩
    refine ⟨_, hstep, hP, _, ⟨hq.1, PerChannel.get_set_same ..⟩, .inr ⟨rfl, ?_⟩⟩
    exact ⟨_, q.rs, if_pos hroom, rfl, rfl⟩
  · have hstep := step_of_bytesAt hq (i := .repeatEnd) (op := 0xE4) (operands := [])
      (hcursor ▸ ⟨hin2, hb2, trivial⟩) (by simp) fun _ => rfl
    rw [exec_repeatEnd (hq.putPart _), State.putPart_putPart,
      Part.endPass_of_infinite (p := { q with cursor := q.cursor + 1 }) hrs hcount] at hstep
    exact ⟨_, hstep, hP, _, hq.putPart _, .inr ⟨hstart, _, rest, rfl, hcount, hstart⟩⟩

/-- Settles O60: it holds, by a set of states that no step leaves for each of the three. -/
theorem hungOperationsNeverComplete : Obligations.HungOperationsNeverComplete := by
  refine ⟨fun s ha => ?scan, fun s c ch p hp hrun => ?loop, fun s c ch p hp hb hroom => ?emptyLoop⟩
  case scan =>
    refine State.neverCompletes_of_closed (I := (·.activity = .hung)) (fun t ht => ?_)
      (fun t ht => ⟨t, step_of_hung ht, ht⟩) ha
    simp [ht]
  case loop =>
    refine State.neverCompletes_of_closed (I := s.LoopsOn c ch) (fun t ht => ?_)
      (fun t => step_stays_loopsOn hrun) ⟨⟨0, rfl⟩, .inr ⟨p, hp⟩⟩
    obtain ⟨_, hhung | ⟨q, hq⟩⟩ := ht
    · simp [hhung]
    · simp [hq.1]
  case emptyLoop =>
    refine State.neverCompletes_of_closed (I := State.InEmptyLoop s.params c ch p.cursor)
      (fun t ht => ?_) (fun t => step_stays_inEmptyLoop hb) ⟨rfl, p, hp, .inl ⟨rfl, hroom⟩⟩
    obtain ⟨_, q, hq, _⟩ := ht
    simp [hq.1]

end Sys2Proof.Machine
end

section
/-! Bytes outside the blob (20_memory.md R34): two parameter sets that agree inside the blob give
the same reads, the same scans and the same meanings, even where the six bytes fetched differ. -/

namespace Sys2Proof.Machine

open Sys2Proof

/-! ### Reads and scans under parameters that agree -/

section Agree

variable {P Q : Params} (h : P.AgreeInBlob Q)
include h

theorem Params.AgreeInBlob.inBlob_iff (a : Word) : Q.InBlob a ↔ P.InBlob a := by
  unfold Params.InBlob
  rw [h.1]

theorem Params.AgreeInBlob.songByte {a : Word} (ha : P.InBlob a) :
    Q.songByte a = P.songByte a := (h.2.2 a ha).symm

theorem Params.AgreeInBlob.readByte (a : Word) : Q.readByte a = P.readByte a := by
  by_cases ha : P.InBlob a
  · rw [Params.readByte_of_inBlob ha, Params.readByte_of_inBlob ((h.inBlob_iff a).2 ha),
      h.songByte ha]
  · rw [Params.readByte_of_out ha, Params.readByte_of_out (mt (h.inBlob_iff a).1 ha)]

theorem Params.AgreeInBlob.readShort (a : Word) : Q.readShort a = P.readShort a := by
  simp only [Params.readShort, h.readByte]

theorem Params.AgreeInBlob.passByte (p : Part) : p.passByte Q = p.passByte P := by
  simp only [Part.passByte, h.readByte]

theorem Params.AgreeInBlob.passShort (p : Part) : p.passShort Q = p.passShort P := by
  simp only [Part.passShort, h.readShort]

theorem Params.AgreeInBlob.tonePeriod (pitch : BitVec 7) :
    Q.tonePeriod pitch = P.tonePeriod pitch :=
  congrArg (fun table : Vector Word 12 => table[semitone pitch]'(Nat.mod_lt _ (by decide)))
    h.2.1.symm

theorem Params.AgreeInBlob.patchScan (n : Byte) (fuel : Nat) (a : Word) :
    patchScan Q n fuel a = patchScan P n fuel a := by
  induction fuel generalizing a with
  | zero => rfl
  | succ fuel ih => simp only [Machine.patchScan, h.readByte, ih]

theorem Params.AgreeInBlob.loadPatch (writers : List (Byte → Envelope → Envelope)) (a : Word)
    (e : Envelope) : loadPatch Q writers a e = loadPatch P writers a e := by
  induction writers generalizing a e with
  | nil => rfl
  | cons write rest ih => simp only [Machine.loadPatch, h.readByte, ih]

theorem Params.AgreeInBlob.envSet (e : Envelope) (n : Byte) (table : Word) :
    envSet Q e n table = envSet P e n table := by
  simp only [Machine.envSet, h.patchScan, h.loadPatch]

theorem Params.AgreeInBlob.titleScan (fuel : Nat) (a : Word) :
    titleScan Q fuel a = titleScan P fuel a := by
  induction fuel generalizing a with
  | zero => rfl
  | succ fuel ih => simp only [Machine.titleScan, h.readByte, ih]

theorem Params.AgreeInBlob.headerParse : headerParse Q = headerParse P := by
  simp only [Machine.headerParse, h.titleScan, headerFields, h.readShort]

end Agree

/-! ### Instructions that differ in operands outside the blob -/

/-- Two instructions that are alike where the cursor past the opcode byte is `a`: they are the same,
or each has an operand byte outside the blob before anything that tells them apart. -/
inductive Alike (P : Params) (a : Word) : Instr → Instr → Prop
  | same (i : Instr) : Alike P a i i
  | byte {i j : Instr} {goI goJ : State → Channel → Part → State} (hi : TakesByte i goI)
    (hj : TakesByte j goJ) (h : P.InBlob a → i = j) : Alike P a i j
  | note {pitch : BitVec 7} {d d' : Byte} {tie tie' : Bool} (hd : P.InBlob a → d = d')
    (htie : P.InBlob (a + 1) → tie = tie') : Alike P a (.note pitch d tie) (.note pitch d' tie')
  | detune {w w' : Word} (h : P.InBlob a → P.InBlob (a + 1) → w = w') :
    Alike P a (.setDetune w) (.setDetune w')
  | lfo {delay speed depth delay' speed' depth' : Byte} {x x' : Word}
    (h : (∀ m ≤ 4, P.InBlob (a + BitVec.ofNat 16 m)) →
      Instr.setLfo delay speed depth x = .setLfo delay' speed' depth' x') :
    Alike P a (.setLfo delay speed depth x) (.setLfo delay' speed' depth' x')

/-- Alike instructions have the same meaning: an operand byte outside the blob is a fault before it
is used. -/
theorem exec_eq_of_alike {s : State} {c : Caller} {ch : Channel} {p : Part} {i j : Instr}
    (hp : s.Consuming c ch p) (h : Alike s.params p.cursor i j) : exec i s = exec j s := by
  cases h with
  | same => rfl
  | byte hi hj h =>
    by_cases hin : s.params.InBlob p.cursor
    · rw [h hin]
    · rw [hi.exec_of_out hp hin, hj.exec_of_out hp hin]
  | @note pitch d d' tie tie' hd htie =>
    by_cases hin : s.params.InBlob p.cursor
    · rw [exec_note_of_inBlob hp hin, exec_note_of_inBlob hp hin, hd hin]
      by_cases hin' : s.params.InBlob (p.cursor + 1)
      · rw [htie hin']
      · have hout : ¬ s.params.InBlob (p.struck s.params pitch d').cursor := hin'
        rw [State.strike_of_out hout, State.strike_of_out hout]
    · rw [(noteFaultsWhereItReads s c ch p pitch d tie hp).1 hin,
        (noteFaultsWhereItReads s c ch p pitch d' tie' hp).1 hin]
  | @detune w w' h =>
    by_cases hlo : s.params.InBlob p.cursor
    · by_cases hhi : s.params.InBlob (p.cursor + 1)
      · rw [h hlo hhi]
      · rw [exec_setDetune hp, exec_setDetune hp, State.afterShort_of_high_out hlo hhi,
          State.afterShort_of_high_out hlo hhi]
    · rw [exec_setDetune hp, exec_setDetune hp, State.afterShort_of_low_out hlo,
        State.afterShort_of_low_out hlo]
  | @lfo delay speed depth delay' speed' depth' x x' h =>
    by_cases hin : ∀ m ≤ 4, s.params.InBlob (p.cursor + BitVec.ofNat 16 m)
    · rw [h hin]
    · classical
      have hex : ∃ m, m ≤ 4 ∧ ¬ s.params.InBlob (p.cursor + BitVec.ofNat 16 m) := by
        simpa only [not_forall, exists_prop] using hin
      obtain ⟨hm, hout⟩ := Nat.find_spec hex
      have hbelow : ∀ m' < Nat.find hex, s.params.InBlob (p.cursor + BitVec.ofNat 16 m') :=
        fun m' hm' => by_contra fun hout' =>
          Nat.find_min hex hm' ⟨Nat.le_trans (Nat.le_of_lt hm') hm, hout'⟩
      rw [exec_setLfo_of_out hp delay speed depth x hm hbelow hout,
        exec_setLfo_of_out hp delay' speed' depth' x' hm hbelow hout]

theorem setPatch_takesByte (n : Byte) :
    TakesByte (.setPatch n) fun s ch q => s.usePatch ch q n :=
  fun _ _ _ _ h => exec_setPatch h n

/-! ### The six bytes fetched -/

theorem decodeNote_two (p : BitVec 7) (d t : Byte) (rest : List Byte) :
    ∃ rest', decodeNote p (d :: t :: rest) =
      .ok (.note p d (decide (t = Config.tieMarker)), rest') := by
  rw [decodeNote]
  by_cases ht : t = Config.tieMarker
  · exact ⟨rest, by simp [ht]⟩
  · exact ⟨t :: rest, by simp [ht]⟩

/-- Both decode, to instructions that are alike. -/
def DecodesAlike (P : Params) (a : Word) (x y : Decoded) : Prop :=
  ∃ i j rest rest', x = .ok (i, rest) ∧ y = .ok (j, rest') ∧ Alike P a i j

theorem decodeOpcode_alike {P Q : Params} (h : P.AgreeInBlob Q) (op : Byte) (a : Word) :
    DecodesAlike P a (decodeOpcode op (P.bytesFrom 5 a)) (decodeOpcode op (Q.bytesFrom 5 a)) := by
  have hbyte {b : Word} (hb : P.InBlob b) : P.songByte b = Q.songByte b := (h.songByte hb).symm
  have oneByte {x y : Decoded} {make : Byte → Instr} {go : Byte → State → Channel → Part → State}
      (hmake : ∀ b, TakesByte (make b) (go b))
      (hx : x = .ok (make (P.songByte a), P.bytesFrom 4 (a + 1)))
      (hy : y = .ok (make (Q.songByte a), Q.bytesFrom 4 (a + 1))) : DecodesAlike P a x y :=
    ⟨_, _, _, _, hx, hy, .byte (hmake _) (hmake _) fun ha => congrArg make (hbyte ha)⟩
  obtain hr | ⟨hn, hn'⟩ | rfl | rfl | rfl | rfl | rfl | rfl | rfl | rfl | rfl | rfl | rfl | rfl |
    ht := opcode_cases op
  · exact ⟨_, _, _, _, decodeOpcode_rest hr _, decodeOpcode_rest hr _, .same _⟩
  · rw [decodeOpcode_note hn hn', decodeOpcode_note hn hn']
    obtain ⟨rest, hd⟩ := decodeNote_two (op.setWidth 7) (P.songByte a) (P.songByte (a + 1)) _
    obtain ⟨rest', hd'⟩ := decodeNote_two (op.setWidth 7) (Q.songByte a) (Q.songByte (a + 1)) _
    exact ⟨_, _, rest, rest', hd, hd', .note hbyte fun ha => by rw [hbyte ha]⟩
  · exact oneByte setPatch_takesByte rfl rfl
  · exact oneByte setVolume_takesByte rfl rfl
  · exact oneByte repeatStart_takesByte rfl rfl
  · exact ⟨_, _, _, _, rfl, rfl, .same _⟩
  · exact ⟨_, _, _, _, rfl, rfl, .same _⟩
  · exact oneByte setNoise_takesByte rfl rfl
  · exact ⟨_, _, _, _, rfl, rfl, .same _⟩
  · exact ⟨_, _, _, _, rfl, rfl, .same _⟩
  · exact ⟨_, _, _, _, rfl, rfl, .detune fun ha ha' => by rw [hbyte ha, hbyte ha']⟩
  · refine ⟨_, _, _, _, rfl, rfl, .lfo fun hin => ?_⟩
    have h0 := hbyte (BitVec.add_zero a ▸ hin 0 (by omega))
    have h1 : P.songByte (a + 1) = Q.songByte (a + 1) := hbyte (hin 1 (by omega))
    have h2 : P.songByte (a + 1 + 1) = Q.songByte (a + 1 + 1) :=
      hbyte (Word.add_ofNat_succ a 1 ▸ hin 2 (by omega))
    have h3 : P.songByte (a + 1 + 1 + 1) = Q.songByte (a + 1 + 1 + 1) :=
      hbyte (by simpa [BitVec.add_assoc] using hin 3 (by omega))
    have h4 : P.songByte (a + 1 + 1 + 1 + 1) = Q.songByte (a + 1 + 1 + 1 + 1) :=
      hbyte (by simpa [BitVec.add_assoc] using hin 4 (by omega))
    rw [h0, h1, h2, h3, h4]
  · exact oneByte lfoEnable_takesByte rfl rfl
  · exact oneByte setMix_takesByte rfl rfl
  · exact ⟨_, _, _, _, decodeOpcode_term ht _, decodeOpcode_term ht _, .same _⟩

/-- With the opcode byte inside the blob the two windows decode alike. -/
theorem window_decodes_alike {P Q : Params} (h : P.AgreeInBlob Q) {a : Word} (ha : P.InBlob a) :
    DecodesAlike P (a + 1) (decode (P.window a)) (decode (Q.window a)) := by
  rw [Params.window_eq_bytesFrom, Params.window_eq_bytesFrom]
  have hop := decodeOpcode_alike h (P.songByte a) (a + 1)
  rw [← h.songByte ha] at hop
  simpa only [Params.bytesFrom, decode_cons, h.songByte ha] using hop

end Sys2Proof.Machine
end

section
/-! Noninterference (20_memory.md R34): every operation of the block does the same with the
parameters replaced by ones that agree inside the blob, and leaves them replaced. -/

namespace Sys2Proof.Machine

open Sys2Proof

/-- The state with other parameters. -/
def State.withParams (s : State) (Q : Params) : State := { s with params := Q }

section Replaced

variable {s t : State} {Q : Params}

@[simp] theorem State.withParams_params : (s.withParams Q).params = Q := rfl
@[simp] theorem State.withParams_inbox : (s.withParams Q).inbox = s.inbox := rfl
@[simp] theorem State.withParams_playing : (s.withParams Q).playing = s.playing := rfl

theorem State.withParams_emitAll (es : List Event) :
    (s.withParams Q).emitAll es = (s.emitAll es).withParams Q := by
  rw [State.emitAll_eq, State.emitAll_eq]
  rfl

/-! ### Instructions -/

theorem State.afterByte_withParams (h : s.params.AgreeInBlob Q) {ch : Channel} {p : Part}
    {go go' : Part → State} (hgo : ∀ q, go' q = (go q).withParams Q) :
    (s.withParams Q).afterByte ch p go' = (s.afterByte ch p go).withParams Q := by
  simp only [State.afterByte, State.withParams_params, h.passByte]
  split
  · rfl
  · exact hgo _

theorem State.afterShort_withParams (h : s.params.AgreeInBlob Q) {ch : Channel} {p : Part}
    {go go' : Part → State} (hgo : ∀ q, go' q = (go q).withParams Q) :
    (s.withParams Q).afterShort ch p go' = (s.afterShort ch p go).withParams Q := by
  simp only [State.afterShort, State.withParams_params, h.passShort]
  split
  · rfl
  · exact hgo _

theorem State.usePatch_withParams (h : s.params.AgreeInBlob Q) (ch : Channel) (p : Part)
    (n : Byte) : (s.withParams Q).usePatch ch p n = (s.usePatch ch p n).withParams Q := by
  have htable : (s.withParams Q).patchTableAddress = s.patchTableAddress := rfl
  simp only [State.usePatch, State.withParams_params, htable, h.envSet]
  split <;> rfl

theorem State.strike_withParams (h : s.params.AgreeInBlob Q) (c : Caller) (ch : Channel) (p : Part)
    (tie : Bool) : (s.withParams Q).strike c ch p tie = (s.strike c ch p tie).withParams Q := by
  simp only [State.strike, State.withParams_params, h.readByte]
  split <;> rfl

/-- A meaning is the same with the parameters replaced where its body is. -/
theorem inConsume_withParams {body body' : Caller → Channel → Part → State}
    (h : inConsume s body = .next t)
    (hbody : ∀ c ch p, body' c ch p = (body c ch p).withParams Q) :
    inConsume (s.withParams Q) body' = .next (t.withParams Q) := by
  obtain ⟨c, ch, p, ha, hp, rfl⟩ := inConsume_next h
  rw [inConsume_of_consuming (s := s.withParams Q) ha hp, hbody]

theorem exec_withParams {i : Instr} (hQ : s.params.AgreeInBlob Q) (h : exec i s = .next t) :
    exec i (s.withParams Q) = .next (t.withParams Q) := by
  cases i with
  | note pitch d tie =>
    refine inConsume_withParams h fun c ch p => ?_
    have hpitch : p.setPitch Q pitch = p.setPitch s.params pitch := by
      rw [Part.setPitch, Part.setPitch, hQ.tonePeriod]
    rw [State.withParams_params, hpitch]
    exact State.afterByte_withParams hQ fun _ => State.strike_withParams hQ ..
  | setPatch n =>
    exact inConsume_withParams h fun _ _ _ =>
      State.afterByte_withParams hQ fun _ => State.usePatch_withParams hQ ..
  | repeatEnd =>
    refine inConsume_withParams h fun _ _ p => ?_
    obtain ⟨q, _ | _⟩ := p.closePass <;> rfl
  | setDetune d =>
    exact inConsume_withParams h fun _ _ _ => State.afterShort_withParams hQ fun _ => rfl
  | setLfo delay speed depth x =>
    exact inConsume_withParams h fun _ _ _ =>
      State.afterByte_withParams hQ fun _ => State.afterByte_withParams hQ fun _ =>
        State.afterByte_withParams hQ fun _ => State.afterShort_withParams hQ fun _ => rfl
  | rest | repeatBreak | volumeUp | volumeDown | term =>
    exact inConsume_withParams h fun _ _ _ => rfl
  | setVolume | repeatStart | setNoise | lfoEnable | setMix =>
    exact inConsume_withParams h fun _ _ _ => State.afterByte_withParams hQ fun _ => rfl

/-! ### The consume loop -/

/-- The two fetches may decode different instructions, but only alike ones. -/
theorem step_consuming_withParams {c : Caller} {ch : Channel} {p : Part}
    (hQ : s.params.AgreeInBlob Q) (hp : s.Consuming c ch p) (h : step s = .next t) :
    step (s.withParams Q) = .next (t.withParams Q) := by
  have hp' : (s.withParams Q).Consuming c ch p := hp
  by_cases hin : s.params.InBlob p.cursor
  · have hin' : (s.withParams Q).params.InBlob p.cursor := (hQ.inBlob_iff _).2 hin
    obtain ⟨i, j, rest, rest', hi, hj, halike⟩ := window_decodes_alike hQ hin
    rw [step_of_decode hp hin hi,
      exec_eq_of_alike (hp.putPart { p with cursor := p.cursor + 1 }) halike] at h
    rw [step_of_decode hp' hin' hj]
    exact exec_withParams (s := s.putPart ch { p with cursor := p.cursor + 1 }) hQ h
  · have hout' : ¬ (s.withParams Q).params.InBlob p.cursor := mt (hQ.inBlob_iff _).1 hin
    cases (step_of_opcode_out hp hin).symm.trans h
    exact step_of_opcode_out hp' hout'

/-! ### The ticks and PRODUCE -/

theorem State.afterChannel_withParams (c : Caller) (ch : Channel) :
    (s.withParams Q).afterChannel c ch = (s.afterChannel c ch).withParams Q := by
  unfold State.afterChannel
  split
  · rfl
  · cases c with
    | tick => rfl
    | produce n k =>
      unfold State.finishTick
      cases hplaying : s.playing <;> simp [hplaying] <;> rfl

theorem State.partTick_withParams (c : Caller) (ch : Channel) (p : Part) :
    (s.withParams Q).partTick c ch p = (s.partTick c ch p).withParams Q := by
  cases hended : p.isEnded with
  | true =>
    rw [State.partTick_of_ended _ c ch hended, State.partTick_of_ended _ c ch hended]
    rfl
  | false =>
    by_cases hticks : p.remainingTicks = 1
    · rw [State.partTick_of_boundary _ c ch hended hticks,
        State.partTick_of_boundary _ c ch hended hticks]
      rfl
    · rw [State.partTick_of_continuing _ c ch hended hticks,
        State.partTick_of_continuing _ c ch hended hticks]
      exact congrArg (State.goto · (.returned c ch true))
        (State.withParams_emitAll (s := s.putPart ch p.continued) _)

theorem State.visit_withParams (c : Caller) (ch : Channel) :
    (s.withParams Q).visit c ch = (s.visit c ch).withParams Q := by
  cases hp : s.slots.get ch with
  | none =>
    rw [State.visit_of_absent hp, State.visit_of_absent (s := s.withParams Q) hp,
      State.afterChannel_withParams]
  | some p =>
    rw [State.visit_of_present hp, State.visit_of_present (s := s.withParams Q) hp,
      State.partTick_withParams]

theorem State.leave_withParams (c : Caller) (ch : Channel) (alive : Bool) :
    (s.withParams Q).leave c ch alive = (s.leave c ch alive).withParams Q := by
  cases alive with
  | true => exact State.afterChannel_withParams c ch
  | false => exact State.afterChannel_withParams (s := s.dropPart ch) c ch

theorem State.endSlot_withParams (ch : Channel) :
    (s.withParams Q).endSlot ch = (s.endSlot ch).withParams Q := by
  rw [State.endSlot_eq, State.endSlot_eq]
  rfl

theorem State.ctxEnd_withParams : (s.withParams Q).ctxEnd = s.ctxEnd.withParams Q := by
  simp only [State.ctxEnd, State.endSlot_withParams]

theorem State.applyLoopPolicy_withParams :
    (s.withParams Q).applyLoopPolicy = s.applyLoopPolicy.withParams Q := by
  have hlimit : (s.withParams Q).maxLoopCount = s.maxLoopCount := rfl
  have hloops : (s.withParams Q).maxLoops = s.maxLoops := rfl
  simp only [State.applyLoopPolicy, hlimit, hloops, State.ctxEnd_withParams]
  split
  · split <;> rfl
  · rfl

theorem State.produceTurn_withParams (n k : Nat) :
    (s.withParams Q).produceTurn n k = (s.produceTurn n k).withParams Q := by
  have hpull : (s.withParams Q).pull = s.pull.withParams Q := rfl
  have hremaining : (s.pull.withParams Q).spt = s.pull.spt := rfl
  simp only [State.produceTurn, State.withParams_playing, hpull, hremaining,
    State.applyLoopPolicy_withParams]
  split
  · split <;> rfl
  · rfl

/-! ### Requests -/

theorem State.load_withParams (h : s.params.AgreeInBlob Q) (sampleRate : Word32)
    (limit : Option Nat) :
    (s.withParams Q).load sampleRate limit = (s.load sampleRate limit).withParams Q := by
  simp only [State.load, State.withParams_params, h.headerParse]
  split
  · split
    · rfl
    · rfl
    · simp only [State.startSession, State.emitAll_eq]
      rfl
  · rfl

theorem State.begin_withParams (h : s.params.AgreeInBlob Q) (r : Request) :
    (s.withParams Q).begin r = (s.begin r).withParams Q := by
  cases r with
  | load sampleRate limit => exact State.load_withParams h sampleRate limit
  | finish => exact congrArg (·.complete .ended) State.ctxEnd_withParams
  | produce | tick | isPlaying => rfl

theorem State.serve_withParams (h : s.params.AgreeInBlob Q) (r : Request) :
    (s.withParams Q).serve r = (s.serve r).withParams Q := by
  have hgate : (s.withParams Q).gate = s.gate := rfl
  cases r with
  | load sampleRate limit => exact State.load_withParams h sampleRate limit
  | produce | tick | finish | isPlaying =>
    simp only [State.serve, hgate, State.begin_withParams h]
    split <;> rfl

theorem State.accept_withParams (h : s.params.AgreeInBlob Q) :
    (s.withParams Q).accept = s.accept.withParams Q := by
  cases hi : s.inbox with
  | nil => simp only [State.accept, State.withParams_inbox, hi]
  | cons r rest =>
    rw [State.accept_of_inbox hi, State.accept_of_inbox (s := s.withParams Q) hi]
    exact State.serve_withParams (s := { s with inbox := rest }) h r

end Replaced

/-- Settles O11: it holds, activity by activity; the consume loop is where the bytes outside the
blob are seen, and the range checks keep them from mattering. -/
theorem bytesOutsideTheBlobNeverMatter : Obligations.BytesOutsideTheBlobNeverMatter := by
  intro s t Q hQ h
  change step (s.withParams Q) = .next (t.withParams Q)
  obtain ⟨ha, rfl⟩ | ⟨n, k, ha, rfl⟩ | ⟨c, ch, ha, rfl⟩ | ⟨c, ch, ha, _⟩ |
    ⟨c, ch, alive, ha, rfl⟩ | ⟨ha, rfl⟩ := step_cases h
  · rw [step_of_idle (s := s.withParams Q) ha, State.accept_withParams hQ]
  · rw [step_of_producing (s := s.withParams Q) ha, State.produceTurn_withParams]
  · rw [step_of_visiting (s := s.withParams Q) ha, State.visit_withParams]
  · obtain ⟨p, hp⟩ := consuming_of_step ha h
    exact step_consuming_withParams hQ hp h
  · rw [step_of_returned (s := s.withParams Q) ha, State.leave_withParams]
  · exact step_of_hung (s := t.withParams Q) ha

end Sys2Proof.Machine
end

section
/-! The envelope's Attack phase and its default patch (40_envelope.md R64, R68), and the tone output
(43_part_tick.md R90). -/

namespace Sys2Proof.Machine

open Sys2Proof

/-! ### Attack (R64) -/

theorem Envelope.update_of_attack {e : Envelope} (h : e.phase = .attack) :
    e.update = e.attackStep := by
  rw [Envelope.update, h]

theorem Byte.add_eq_ofNat (a b : Byte) : a + b = BitVec.ofNat 8 (a.toNat + b.toNat) := by
  rw [BitVec.ofNat_add, BitVec.ofNat_toNat, BitVec.ofNat_toNat, BitVec.setWidth_eq,
    BitVec.setWidth_eq]

/-- Settles O31: it holds, by the test for overflow of the exact sum. -/
theorem envelopeAttackStep : Obligations.EnvelopeAttackStep := by
  intro e hphase
  rw [Envelope.update_of_attack hphase, ← Byte.add_eq_ofNat]
  refine ⟨fun hover => if_pos (decide_eq_true hover), fun hfits => if_neg fun hover => ?_⟩
  exact Nat.not_lt.2 hfits (of_decide_eq_true hover)

/-! ### The default patch (R68) -/

/-- The default envelope just attacked: full level, in a Decay phase that goes nowhere. -/
def Envelope.held : Envelope := { Envelope.fresh with current := 255, phase := .decay }

theorem Envelope.attack_fresh (current : Byte) (phase : EnvPhase) :
    ({ Envelope.fresh with current := current, phase := phase } : Envelope).attack =
      Envelope.held := rfl

theorem Envelope.held_after (k : Nat) : Envelope.held.after k = Envelope.held := by
  induction k with
  | zero => rfl
  | succ k ih =>
    rw [Envelope.after, ih]
    decide

/-- Settles O32: it holds, since the update of the held envelope is the held envelope. -/
theorem defaultEnvelopeHoldsUntilReleased : Obligations.DefaultEnvelopeHoldsUntilReleased := by
  intro current phase k
  rw [Envelope.attack_fresh, Envelope.held_after]
  decide

/-! ### The tone output (R90) -/

/-- Settles O36: it holds, the shift being the floor of the division. -/
theorem toneOutIsTheClampedShiftedSum : Obligations.ToneOutIsTheClampedShiftedSum := by
  intro p
  change (p.toneOut.toNat : Int) = min (max (p.toneSum / 2 ^ p.octave.toNat) 1) 4095
  rw [Part.toneOut, clampPeriod_toNat, Int.shiftRight_eq_div_pow]
  norm_cast

end Sys2Proof.Machine
end

section
/-! The pitch LFO (41_pitch_lfo.md R73 to R75): one call of LfoUpdate, the calls on which it fires,
and the triangle its fires draw. -/

namespace Sys2Proof.Machine

open Sys2Proof

/-! ### One call (R73) -/

theorem Byte.toNat_sub_one {b : Byte} (h : 1 ≤ b.toNat) : (b - 1).toNat = b.toNat - 1 :=
  BitVec.toNat_sub_of_le (show (1 : Byte) ≤ b from h)

/-- A counter of 2 or more counts down; one of 1 or 0 has run out (D8). -/
theorem satSub_one_of_two_le {b : Byte} (h : 2 ≤ b.toNat) : satSub b 1 = b - 1 ∧ b - 1 ≠ 0 := by
  have hnat := Byte.toNat_sub_one (Nat.le_of_lt h)
  refine ⟨BitVec.eq_of_toNat_eq (by rw [satSub_toNat, hnat]; rfl), fun hzero => ?_⟩
  rw [hzero] at hnat
  exact absurd hnat.symm (Nat.sub_ne_zero_of_lt h)

theorem satSub_one_of_le_one {b : Byte} (h : b.toNat ≤ 1) : satSub b 1 = 0 :=
  BitVec.eq_of_toNat_eq (by rw [satSub_toNat]; exact Nat.sub_eq_zero_of_le h)

section Update

variable {l : Lfo}

theorem Lfo.update_of_disabled (h : l.enabled = false) : l.update = (l, false) := if_pos h

theorem Lfo.update_of_waiting (h : l.enabled = true) (hwait : 2 ≤ l.waitCount.toNat) :
    l.update = ({ l with waitCount := l.waitCount - 1 }, false) := by
  obtain ⟨hsub, hne⟩ := satSub_one_of_two_le hwait
  rw [Lfo.update, if_neg (by simp [h]), hsub, if_pos hne]

theorem Lfo.update_of_due (h : l.enabled = true) (hwait : l.waitCount.toNat ≤ 1) :
    l.update = (l.fire, true) := by
  rw [Lfo.update, if_neg (by simp [h]), satSub_one_of_le_one hwait, if_neg (by simp)]

theorem Lfo.fire_of_counting (h : 2 ≤ l.depthCount.toNat) :
    l.fire = { l with
      waitCount := l.speed
      effect := l.effect + l.currentDisplacement
      depthCount := l.depthCount - 1 } := by
  obtain ⟨hsub, hne⟩ := satSub_one_of_two_le h
  simp only [Lfo.fire, hsub, if_neg hne]

/-- The fire that counts the depth out turns the displacement round (D9). -/
theorem Lfo.fire_of_turning (h : l.depthCount.toNat ≤ 1) :
    l.fire = { l with
      waitCount := l.speed
      effect := l.effect + l.currentDisplacement
      depthCount := l.depth
      currentDisplacement := -l.currentDisplacement } := by
  simp only [Lfo.fire, satSub_one_of_le_one h, if_true]

end Update

/-- Settles O33: it holds, by the wait counter and, on a fire, the depth counter. -/
theorem lfoUpdateResult : Obligations.LfoUpdateResult := by
  intro l
  refine ⟨Lfo.update_of_disabled, Lfo.update_of_waiting, fun he hwait =>
    ⟨l.fire, Lfo.update_of_due he hwait, rfl, rfl, rfl, rfl, rfl, rfl, rfl,
      fun hcount => ?counting, fun hcount => ?turning⟩⟩
  case counting =>
    rw [Lfo.fire_of_counting hcount]
    exact ⟨rfl, rfl⟩
  case turning =>
    rw [Lfo.fire_of_turning hcount]
    exact ⟨rfl, rfl⟩

/-! ### The firing schedule (R74) -/

/-- An enabled LFO with this speed fires on the `n`-th call from here. -/
structure Lfo.FiresIn (l : Lfo) (speed : Byte) (n : Nat) : Prop where
  enabled : l.enabled = true
  speed_eq : l.speed = speed
  wait : max l.waitCount.toNat 1 = n

theorem Lfo.FiresIn.fired_iff {l : Lfo} {speed : Byte} {n : Nat} (h : l.FiresIn speed n) :
    l.update.2 = true ↔ n = 1 := by
  obtain ⟨he, _, hwait⟩ := h
  obtain hle | hge := le_or_gt l.waitCount.toNat 1
  · rw [Lfo.update_of_due he hle]
    exact iff_of_true rfl (by omega)
  · rw [Lfo.update_of_waiting he hge]
    exact iff_of_false Bool.false_ne_true (by omega)

theorem Lfo.FiresIn.next {l : Lfo} {speed : Byte} {n : Nat} (h : l.FiresIn speed n) :
    l.update.1.FiresIn speed (if n = 1 then max speed.toNat 1 else n - 1) := by
  obtain ⟨he, rfl, hwait⟩ := h
  obtain hle | hge := le_or_gt l.waitCount.toNat 1
  · rw [Lfo.update_of_due he hle, if_pos (by omega)]
    exact ⟨he, rfl, rfl⟩
  · rw [Lfo.update_of_waiting he hge, if_neg (by omega)]
    refine ⟨he, rfl, ?_⟩
    rw [Byte.toNat_sub_one (Nat.le_of_lt hge)]
    omega

theorem succ_mod_eq_ite {m : Nat} (hm : 1 ≤ m) (n : Nat) :
    (n + 1) % m = if n % m + 1 = m then 0 else n % m + 1 := by
  have hlt := Nat.mod_lt n hm
  rw [← Nat.mod_add_mod]
  split
  next h => rw [h, Nat.mod_self]
  next h => exact Nat.mod_eq_of_lt (by omega)

/-- After `k` calls the next fire is this many calls away: the first is call `d`, and each later one
comes `s` calls after it. -/
def callsToFire (d s k : Nat) : Nat := if k < d then d - k else s - (k - d) % s

theorem callsToFire_succ {d s : Nat} (hs : 1 ≤ s) (k : Nat) :
    callsToFire d s (k + 1) =
      if callsToFire d s k = 1 then s else callsToFire d s k - 1 := by
  unfold callsToFire
  obtain hlt | rfl | hgt := Nat.lt_trichotomy (k + 1) d
  · rw [if_pos hlt, if_pos (Nat.lt_of_succ_lt hlt), if_neg (by omega)]
    omega
  · rw [if_neg (Nat.lt_irrefl _), if_pos (Nat.lt_succ_self k), if_pos (by omega), Nat.sub_self,
      Nat.zero_mod, Nat.sub_zero]
  · have hsub : k + 1 - d = k - d + 1 := by omega
    have hmod := Nat.mod_lt (k - d) hs
    rw [if_neg (show ¬ k + 1 < d by omega), if_neg (show ¬ k < d by omega), hsub,
      succ_mod_eq_ite hs]
    split <;> split <;> omega

theorem callsToFire_eq_one_iff {d s : Nat} (hs : 1 ≤ s) (k : Nat) :
    callsToFire d s k = 1 ↔ d ≤ k + 1 ∧ (k + 1 - d) % s = 0 := by
  unfold callsToFire
  obtain hlt | rfl | hgt := Nat.lt_trichotomy (k + 1) d
  · rw [if_pos (Nat.lt_of_succ_lt hlt)]
    omega
  · rw [if_pos (Nat.lt_succ_self k), Nat.sub_self, Nat.zero_mod]
    omega
  · have hsub : k + 1 - d = k - d + 1 := by omega
    have hmod := Nat.mod_lt (k - d) hs
    rw [if_neg (show ¬ k < d by omega), hsub, succ_mod_eq_ite hs]
    split <;> omega

theorem Lfo.after_restart_firesIn {l : Lfo} (h : l.enabled = true) (k : Nat) :
    (l.restart.after k).FiresIn l.speed
      (callsToFire (max l.delay.toNat 1) (max l.speed.toNat 1) k) := by
  induction k with
  | zero => exact ⟨h, rfl, by rw [callsToFire, if_pos (by omega)]; rfl⟩
  | succ k ih =>
    rw [callsToFire_succ (by omega)]
    exact ih.next

/-- Settles O34: it holds, by how far away the next fire is after each call. -/
theorem lfoFiringSchedule : Obligations.LfoFiringSchedule := fun _ k h =>
  (Lfo.after_restart_firesIn h k).fired_iff.trans (callsToFire_eq_one_iff (by omega) k)

/-! ### The triangle (R75) -/

/-- The height of the triangle wave of half period `D` at the place `u` of its period, in
displacements. -/
def triangleHeight (D u : Nat) : Int :=
  if u ≤ D then (u : Int) - (D - D / 2 : Nat) else ((D / 2 : Nat) : Int) - ((u : Int) - D)

/-- The wave rises in the first half of its period and falls in the second. -/
def triangleSlope (D u : Nat) : Int := if u < D then 1 else -1

/-- How many fires there are to the next turn. -/
def firesToTurn (D u : Nat) : Nat := if u < D then D - u else 2 * D - u

/-- The place after this one. -/
def nextPlace (D u : Nat) : Nat := if u + 1 = 2 * D then 0 else u + 1

section Wave

variable {D u : Nat}

theorem nextPlace_lt (h : u < 2 * D) : nextPlace D u < 2 * D := by
  unfold nextPlace
  split <;> omega

theorem triangleHeight_nextPlace (h : u < 2 * D) :
    triangleHeight D (nextPlace D u) = triangleHeight D u + triangleSlope D u := by
  unfold triangleHeight triangleSlope nextPlace
  obtain hup | hdown := Nat.lt_or_ge u D
  · rw [if_neg (show u + 1 ≠ 2 * D by omega), if_pos (show u + 1 ≤ D from hup),
      if_pos (Nat.le_of_lt hup), if_pos hup]
    omega
  · rw [if_neg (Nat.not_lt.2 hdown)]
    obtain hmore | hlast := Nat.lt_or_eq_of_le (Nat.succ_le_of_lt h)
    · rw [if_neg (Nat.ne_of_lt hmore), if_neg (show ¬ u + 1 ≤ D by omega)]
      split <;> omega
    · rw [if_pos hlast, if_pos (Nat.zero_le D)]
      split <;> omega

/-- Between the turns the slope stays. -/
theorem nextPlace_of_counting (h : 2 ≤ firesToTurn D u) :
    firesToTurn D (nextPlace D u) = firesToTurn D u - 1 ∧
      triangleSlope D (nextPlace D u) = triangleSlope D u := by
  unfold firesToTurn triangleSlope nextPlace at *
  obtain hup | hdown := Nat.lt_or_ge u D
  · rw [if_pos hup] at h
    rw [if_neg (show u + 1 ≠ 2 * D by omega), if_pos hup, if_pos hup,
      if_pos (show u + 1 < D by omega), if_pos (show u + 1 < D by omega)]
    exact ⟨Nat.sub_succ .., rfl⟩
  · have hge : ¬ u < D := Nat.not_lt.2 hdown
    rw [if_neg hge] at h
    rw [if_neg (show u + 1 ≠ 2 * D by omega), if_neg hge, if_neg hge,
      if_neg (show ¬ u + 1 < D by omega), if_neg (show ¬ u + 1 < D by omega)]
    exact ⟨Nat.sub_succ .., rfl⟩

/-- At a turn the slope changes its sign: at the top, place `D`, and where the period begins again.
-/
theorem nextPlace_of_turning (hu : u < 2 * D) (h : firesToTurn D u ≤ 1) :
    firesToTurn D (nextPlace D u) = D ∧
      triangleSlope D (nextPlace D u) = -triangleSlope D u := by
  unfold firesToTurn triangleSlope nextPlace at *
  obtain hup | hdown := Nat.lt_or_ge u D
  · rw [if_pos hup] at h
    obtain rfl : u + 1 = D := by omega
    rw [if_neg (show u + 1 ≠ 2 * (u + 1) by omega), if_pos hup, if_neg (Nat.lt_irrefl _),
      if_neg (Nat.lt_irrefl _)]
    exact ⟨by omega, rfl⟩
  · have hge : ¬ u < D := Nat.not_lt.2 hdown
    rw [if_neg hge] at h
    rw [if_pos (show u + 1 = 2 * D by omega), if_neg hge, if_pos (show 0 < D by omega),
      if_pos (show 0 < D by omega)]
    exact ⟨Nat.sub_zero D, rfl⟩

end Wave

/-- An LFO whose fires draw `l`'s triangle is at place `u` of the period. -/
structure Lfo.OnTriangle (l m : Lfo) (u : Nat) : Prop where
  depth : m.depth = l.depth
  period : u < 2 * l.depth.toNat
  count : m.depthCount.toNat = firesToTurn l.depth.toNat u
  displacement : m.currentDisplacement =
    BitVec.ofInt 16 (triangleSlope l.depth.toNat u * l.displacement.toInt)
  effect : m.effect = BitVec.ofInt 16 (triangleHeight l.depth.toNat u * l.displacement.toInt)

/-- A fire moves one place on. -/
theorem Lfo.OnTriangle.fire {l m : Lfo} {u : Nat} (h : l.OnTriangle m u) :
    l.OnTriangle m.fire (nextPlace l.depth.toNat u) := by
  obtain ⟨hdepth, hperiod, hcount, hdisplacement, heffect⟩ := h
  have heffect' : m.effect + m.currentDisplacement = BitVec.ofInt 16
      (triangleHeight l.depth.toNat (nextPlace l.depth.toNat u) * l.displacement.toInt) := by
    rw [heffect, hdisplacement, ← BitVec.ofInt_add, ← Int.add_mul, triangleHeight_nextPlace hperiod]
  obtain hmore | hlast := Nat.lt_or_ge 1 m.depthCount.toNat
  · obtain ⟨hfires, hslope⟩ := nextPlace_of_counting (hcount ▸ hmore)
    rw [Lfo.fire_of_counting hmore]
    exact ⟨hdepth, nextPlace_lt hperiod,
      (Byte.toNat_sub_one (Nat.le_of_lt hmore)).trans (by rw [hcount, hfires]),
      hslope ▸ hdisplacement, heffect'⟩
  · obtain ⟨hfires, hslope⟩ := nextPlace_of_turning hperiod (hcount ▸ hlast)
    rw [Lfo.fire_of_turning hlast]
    refine ⟨hdepth, nextPlace_lt hperiod, (congrArg _ hdepth).trans hfires.symm, ?_, heffect'⟩
    rw [hslope, hdisplacement, ← BitVec.ofInt_neg, Int.neg_mul]

theorem Lfo.afterFires_onTriangle {l : Lfo} (h : 2 ≤ l.depth.toNat) (f : Nat) :
    l.OnTriangle (l.restart.afterFires f)
      ((f + (l.depth.toNat - l.depth.toNat / 2)) % (2 * l.depth.toNat)) := by
  induction f with
  | zero =>
    have hplace : (0 + (l.depth.toNat - l.depth.toNat / 2)) % (2 * l.depth.toNat) =
        l.depth.toNat - l.depth.toNat / 2 := by
      rw [Nat.zero_add]
      exact Nat.mod_eq_of_lt (by omega)
    have hlt : l.depth.toNat - l.depth.toNat / 2 < l.depth.toNat := by omega
    rw [hplace]
    refine ⟨rfl, by omega, ?_, ?_, ?_⟩
    · rw [firesToTurn, if_pos hlt]
      change (l.depth >>> 1).toNat = _
      rw [BitVec.toNat_ushiftRight, Nat.shiftRight_eq_div_pow]
      omega
    · rw [triangleSlope, if_pos hlt, Int.one_mul, BitVec.ofInt_toInt]
      rfl
    · rw [triangleHeight, if_pos (Nat.le_of_lt hlt), Int.sub_self, Int.zero_mul]
      rfl
  | succ f ih =>
    have hplace : (f + 1 + (l.depth.toNat - l.depth.toNat / 2)) % (2 * l.depth.toNat) =
        nextPlace l.depth.toNat
          ((f + (l.depth.toNat - l.depth.toNat / 2)) % (2 * l.depth.toNat)) := by
      rw [Nat.add_right_comm, succ_mod_eq_ite (by omega)]
      rfl
    rw [hplace]
    exact ih.fire

/-- With depth 0 or 1 every fire turns the displacement round. -/
theorem Lfo.afterFires_alternates {l : Lfo} (h : l.depth.toNat ≤ 1) (f : Nat) :
    (l.restart.afterFires f).depth = l.depth ∧ (l.restart.afterFires f).depthCount.toNat ≤ 1 ∧
      (l.restart.afterFires f).currentDisplacement =
        (if f % 2 = 0 then l.displacement else -l.displacement) ∧
      (l.restart.afterFires f).effect = if f % 2 = 0 then 0 else l.displacement := by
  induction f with
  | zero =>
    refine ⟨rfl, ?_, rfl, rfl⟩
    change (l.depth >>> 1).toNat ≤ 1
    rw [BitVec.toNat_ushiftRight, Nat.shiftRight_eq_div_pow]
    omega
  | succ f ih =>
    obtain ⟨hdepth, hcount, hdisplacement, heffect⟩ := ih
    rw [Lfo.afterFires, Lfo.fire_of_turning hcount]
    refine ⟨hdepth, hdepth ▸ h, ?_, ?_⟩
    all_goals
      simp only [hdisplacement, heffect]
      obtain heven | hodd := Nat.mod_two_eq_zero_or_one f
      · simp [heven, Nat.succ_mod_two_eq_zero_iff]
      · simp [hodd, Nat.succ_mod_two_eq_zero_iff]

/-- Settles O35: it holds, by induction on the number of fires. -/
theorem lfoTriangle : Obligations.LfoTriangle :=
  ⟨fun _ f h => (Lfo.afterFires_onTriangle h f).effect,
    fun _ f h => (Lfo.afterFires_alternates h f).2.2.2⟩

end Sys2Proof.Machine
end
